-- ==== Sys2Proof/Word.lean ====
section
/-! DEFINITION. The word types of FSYNC. Every value of the spec is unsigned (00_scope.md R10), so a
plain bit vector of the stated width is the whole story. -/

namespace Sys2Proof

/-- A byte is 8 bits (R10). -/
abbrev Byte := BitVec 8

/-- 16 bits: a command word (R84), a length (R82), a checksum (R83), the CRC shift register (R23). -/
abbrev Word := BitVec 16

/-- 32 bits: the value of a register read (R8 REG_WIDTH, R92). -/
abbrev RegVal := BitVec 32

end Sys2Proof
end

