-- ==== Sys2Proof/Syntax.lean ====
section
/-! DEFINITION. The nine command words of the opcode map (30_encoding.md R86), one constructor per row of
spec/opcode_table.json. An illegal word is no instruction: what it does (44_control.md R194) is an action of the
command port (log 14). -/

namespace Sys2Proof

/-- A command of the host (R86). The operand byte is IMM (R84). -/
inductive Instr where
  /-- NOP (R192). -/
  | nop
  /-- CRC_INIT (R104). -/
  | crcInit
  /-- CRC_UPDATE b (R105). -/
  | crcUpdate (b : Byte)
  /-- RX_PUSH b (R162). -/
  | rxPush (b : Byte)
  /-- RX_CLEAR (R164). -/
  | rxClear
  /-- TX_PUSH b (R121). -/
  | txPush (b : Byte)
  /-- TX_COMMIT (R122). -/
  | txCommit
  /-- TX_ABORT (R123). -/
  | txAbort
  /-- CLR_STATUS m (R193). -/
  | clrStatus (m : Byte)
deriving DecidableEq, Repr

end Sys2Proof
end

