-- ==== Sys2Proof/WellFormed.lean ====
section
/-! DEFINITION. Which instructions have an encoding. The one check is the reserved mask of CLR_STATUS. -/

namespace Sys2Proof

/-- The reserved bits of CLR_STATUS's mask: every bit but 0 and 2 (30_encoding.md R86, R88: IMM & 0xFA). -/
def reservedMaskBits : Byte := 0xFA

/-- An instruction is well formed when some command word stands for it: the reserved bits of CLR_STATUS's mask
are 0 (44_control.md R193), and every other command has an encoding at every operand (R86). -/
def Instr.wellFormed : Instr → Bool
  | .nop => true
  | .crcInit => true
  | .crcUpdate _ => true
  | .rxPush _ => true
  | .rxClear => true
  | .txPush _ => true
  | .txCommit => true
  | .txAbort => true
  | .clrStatus m => m &&& reservedMaskBits == 0

end Sys2Proof
end

