-- ==== Sys2Proof/Decode.lean ====
section
/-! DEFINITION. The command word format (30_encoding.md R84 to R90): the decoder, total on every 16-bit word and
rejecting by name, then the encoder, and the opcode map of R86 as a table of rows. -/

namespace Sys2Proof

/-- OPC, bits 15:8 of a command word (R84). -/
def opcField (w : Word) : Byte := w.extractLsb' 8 8

/-- IMM, bits 7:0 of a command word (R84). -/
def immField (w : Word) : Byte := w.extractLsb' 0 8

/-- The command word with the given OPC and IMM (R84). -/
def commandWord (opc imm : Byte) : Word := opc ++ imm

/-- Why a word is illegal: the three cases of R88. -/
inductive DecodeError where
  /-- OPC is not one of the nine listed opcodes. -/
  | unlistedOpcode (opc : Byte)
  /-- OPC is NOP, CRC_INIT, RX_CLEAR, TX_COMMIT or TX_ABORT, and IMM is not 0x00. -/
  | nonzeroOperand (opc imm : Byte)
  /-- OPC is CLR_STATUS, and a reserved bit of the mask is set. -/
  | reservedMaskBit (m : Byte)
deriving DecidableEq, Repr

/-- A command whose IMM must be 0x00 (R86). -/
def decodeNoOperand (w : Word) (i : Instr) : Except DecodeError Instr :=
  if immField w = 0 then .ok i else .error (.nonzeroOperand (opcField w) (immField w))

/-- The decoder (R86 to R88): total, one word a command, no mode (R90). -/
def decode (w : Word) : Except DecodeError Instr :=
  if opcField w = 0x00 then decodeNoOperand w .nop
  else if opcField w = 0x01 then decodeNoOperand w .crcInit
  else if opcField w = 0x02 then .ok (.crcUpdate (immField w))
  else if opcField w = 0x10 then .ok (.rxPush (immField w))
  else if opcField w = 0x11 then decodeNoOperand w .rxClear
  else if opcField w = 0x20 then .ok (.txPush (immField w))
  else if opcField w = 0x21 then decodeNoOperand w .txCommit
  else if opcField w = 0x22 then decodeNoOperand w .txAbort
  else if opcField w = 0x30 then
    if immField w &&& reservedMaskBits = 0 then .ok (.clrStatus (immField w))
    else .error (.reservedMaskBit (immField w))
  else .error (.unlistedOpcode (opcField w))

/-- The encoder, from the same map (R86); an instruction without operand assembles with IMM = 0x00 (R93). -/
def encode : Instr → Word
  | .nop => commandWord 0x00 0x00
  | .crcInit => commandWord 0x01 0x00
  | .crcUpdate b => commandWord 0x02 b
  | .rxPush b => commandWord 0x10 b
  | .rxClear => commandWord 0x11 0x00
  | .txPush b => commandWord 0x20 b
  | .txCommit => commandWord 0x21 0x00
  | .txAbort => commandWord 0x22 0x00
  | .clrStatus m => commandWord 0x30 m

/-- A row of the opcode map of R86. -/
structure OpcodeRow where
  mnemonic : String
  pattern : Word
  mask : Word
deriving DecidableEq, Repr

/-- "A word meets a row when `(W & mask) = match`" (R86). -/
def OpcodeRow.meets (r : OpcodeRow) (w : Word) : Bool := w &&& r.mask == r.pattern

/-- The row of R86 an instruction belongs to: its mnemonic, match and mask as that table writes them. -/
def Instr.row : Instr → OpcodeRow
  | .nop => { mnemonic := "NOP", pattern := 0x0000, mask := 0xFFFF }
  | .crcInit => { mnemonic := "CRC_INIT", pattern := 0x0100, mask := 0xFFFF }
  | .crcUpdate _ => { mnemonic := "CRC_UPDATE", pattern := 0x0200, mask := 0xFF00 }
  | .rxPush _ => { mnemonic := "RX_PUSH", pattern := 0x1000, mask := 0xFF00 }
  | .rxClear => { mnemonic := "RX_CLEAR", pattern := 0x1100, mask := 0xFFFF }
  | .txPush _ => { mnemonic := "TX_PUSH", pattern := 0x2000, mask := 0xFF00 }
  | .txCommit => { mnemonic := "TX_COMMIT", pattern := 0x2100, mask := 0xFFFF }
  | .txAbort => { mnemonic := "TX_ABORT", pattern := 0x2200, mask := 0xFFFF }
  | .clrStatus _ => { mnemonic := "CLR_STATUS", pattern := 0x3000, mask := 0xFFFA }

/-- The operand byte an instruction carries, 0x00 for a command without one (R84). -/
def Instr.operand : Instr → Byte
  | .nop => 0
  | .crcInit => 0
  | .crcUpdate b => b
  | .rxPush b => b
  | .rxClear => 0
  | .txPush b => b
  | .txCommit => 0
  | .txAbort => 0
  | .clrStatus m => m

/-- The opcode map of R86, its nine rows in its order. -/
def opcodeTable : List OpcodeRow :=
  [Instr.nop.row, Instr.crcInit.row, (Instr.crcUpdate 0).row, (Instr.rxPush 0).row, Instr.rxClear.row,
   (Instr.txPush 0).row, Instr.txCommit.row, Instr.txAbort.row, (Instr.clrStatus 0).row]

/-- The instruction the decoder reads from a row's bits, numbered as spec/opcode_table.json numbers them. A
command is one word of 16 bits taken whole, so bit 0 of the table is bit 0 of the word (log 11); bits above nbits
are 0, and a value that does not fit 16 bits is no command word. -/
def decodeTableWord (nbits w : Nat) : Option Instr :=
  if w % 2 ^ nbits < 2 ^ 16 then (decode (BitVec.ofNat 16 (w % 2 ^ nbits))).toOption else none

end Sys2Proof
end

