-- ==== Sys2Proof/Config.lean ====
section
/-! DEFINITION. What is fixed when the block is built: the constants of 00_scope.md R7 and R8, and the two
parameters of R9. The spec leaves no value undefined, so there is no free value here. -/

namespace Sys2Proof

/-- The parameters the model takes as arguments (R9). Each is fixed when the block is built. Held as data, so
that one statement speaks of every legal pair of values (log 1). -/
structure Config where
  /-- EVQ_CAP, the capacity of the event queue, in event records. -/
  evqCap : Nat
  /-- TXQ_CAP, the capacity of the transmit output queue, in bytes. -/
  txqCap : Nat
deriving DecidableEq, Repr

namespace Config

/-- The legal range of the parameters (R9). -/
structure Legal (c : Config) : Prop where
  evq_pos : 1 ≤ c.evqCap
  evq_lt : c.evqCap ≤ 2 ^ 32 - 1
  txq_fits : 65541 ≤ c.txqCap
  txq_lt : c.txqCap ≤ 2 ^ 32 - 1

/-- The capacities State.reset is built with: those 95_test_vectors.md uses. DESIGN CHOICE (log 1): the spec
leaves both open, and no statement rests on these two numbers. -/
def standard : Config := { evqCap := 16, txqCap := 65541 }

/-- MARKER, the value of each start-marker byte (R7). -/
def marker : Byte := 0xAA

/-- MIN_FRAME = 2 + 2 + 0 + 2 (R7). -/
def minFrame : Nat := 6

/-- MAX_PAYLOAD, the largest payload the 16-bit length field can state (R7); also TXB_CAP (R8). -/
def maxPayload : Nat := 65535

/-- MAX_FRAME = 6 + MAX_PAYLOAD (R7); also RX_CAP (R8). -/
def maxFrame : Nat := 65541

/-- CRC_INIT, the initial value of the checksum (R7). -/
def crcInit : Word := 0xFFFF

/-- CRC_XOROUT, the final XOR of the checksum (R7). -/
def crcXorOut : Word := 0xFFFF

/-- CRC_POLY, the generator polynomial in normal (unreflected) form (R7). -/
def crcPoly : Word := 0x8005

/-- The 16-bit bit-reversal of CRC_POLY, which the reflected shift register uses (R101). UNVERIFIED by any
second source, as every literal of the document (log 10). -/
def crcPolyReflected : Word := 0xA001

end Config

end Sys2Proof
end

