-- ==== Sys2Proof/Machine/State.lean ====
section
/-! DEFINITION. The state of FSYNC (10_state.md R22), as plain data, with what its agents hold outside the block
(44_control.md R190), the reasons a step can stop, and reset (70_reset_and_hazards.md R241). -/

namespace Sys2Proof.Machine

/-- The kind of an Event record (R28). -/
inductive EventKind where
  | valid
  | invalid
deriving DecidableEq, Repr

/-- An Event record (R28). That payload has exactly `length` bytes is an invariant (R38 item 5). -/
structure Event where
  kind : EventKind
  /-- The declared length L of the frame. -/
  length : Word
  payload : List Byte
  /-- The frame's trailing checksum field. -/
  declaredCrc : Word
  /-- CRC-16/USB over the frame bytes [2 .. 4+L). -/
  computedCrc : Word
deriving DecidableEq, Repr

/-- The causes of exceptional conditions (60_exceptions.md R211). -/
inductive Cause where
  /-- An illegal word was offered; flag ILL. -/
  | illegalCommand
  /-- The payload being built overflowed; flag TX_OVF. -/
  | txOverflow
  /-- A commit was refused; flag TX_REJ. -/
  | txReject
deriving DecidableEq, Repr

/-- One agent's turn at one of the ports (44_control.md R190, 30_encoding.md R95; log 2). -/
inductive Turn where
  /-- The host offers its outstanding command word (EXEC, R191). -/
  | command
  /-- The host reads register idx (REG_READ, R195). -/
  | regRead (idx : Byte)
  /-- The event consumer takes an event (EVT_POP, R165). -/
  | evtPop
  /-- The TX sink takes a byte (TX_POP, R124). -/
  | txPop
  /-- The environment resets the block (RESET, R240). `reoffer`: the host offers its outstanding word again
  afterwards, which is its own business (R242; log 5). -/
  | reset (reoffer : Bool)
deriving DecidableEq, Repr

/-- Why the machine stops with a fault. -/
inductive Fault where
  /-- Raised by TX_COMMIT alone, with TX_OVF = 0 and more than 65535 bytes in TXB: the spec says `encode` "is not
  defined" there (41_encoder.md R120). Safe: no run reaches such a state (R38 item 2; log 7). -/
  | encodeNotDefined
deriving DecidableEq, Repr

/-- Why the machine refuses an instruction. -/
inductive Refusal where
  /-- Raised by no arm of exec: every command has its meaning. Safe. -/
  | notModelled (mnemonic : String)
deriving DecidableEq, Repr

/-- The state: the parameters, the tuple of R22, and what the agents outside the block hold. -/
structure State where
  /-- EVQ_CAP and TXQ_CAP (R9); no transaction writes them (R243; log 1). -/
  config : Config
  /-- CRC_STATE, the shift register of CRCU (R23). -/
  crcState : Word
  /-- RXB, the receive buffer, head first (R24). -/
  rxb : List Byte
  /-- RESYNC_COUNT, a saturating counter (R27). -/
  resyncCount : RegVal
  /-- EVQ, the queue of decode events, oldest first (R26). -/
  evq : List Event
  /-- TXB, the encoder's payload buffer (R29). -/
  txb : List Byte
  /-- TXQ, the encoded bytes waiting for the TX sink, oldest first (R30). -/
  txq : List Byte
  /-- ILL, status flag (R31). -/
  ill : Bool
  /-- TX_OVF, status flag (R31). -/
  txOvf : Bool
  /-- TX_REJ, status flag (R31). -/
  txRej : Bool
  /-- Outside the block: the host's command words not performed yet, the outstanding one first (R36, R191; log 3). -/
  cmds : List Word
  /-- Outside the block: the order in which the agents come to the ports (R190; log 2). -/
  turns : List Turn
  /-- Outside the block: what REG_READ returned to the host, with the index, oldest first (R195; log 6). -/
  reads : List (Byte × RegVal)
  /-- Outside the block: what EVT_POP returned to the event consumer, oldest first (R165; log 6). -/
  taken : List Event
  /-- Outside the block: what TX_POP returned to the TX sink, oldest first (R124; log 6). -/
  sent : List Byte
deriving DecidableEq, Repr

/-- A block built with parameters c, right after reset (R241), whose agents hold nothing yet. -/
def State.resetWith (c : Config) : State :=
  { config := c
    crcState := 0xFFFF
    rxb := []
    resyncCount := 0
    evq := []
    txb := []
    txq := []
    ill := false
    txOvf := false
    txRej := false
    cmds := []
    turns := []
    reads := []
    taken := []
    sent := [] }

/-- The machine right after reset (R241), at the capacities of log 1. -/
def State.reset : State := State.resetWith Config.standard

end Sys2Proof.Machine
end

