-- ==== Sys2Proof/Machine/Operands.lean ====
section
/-! DEFINITION. Operand forms: the operand byte IMM (30_encoding.md R85), the big-endian 16-bit fields of a frame
(20_memory.md R61, R82, R83), and the byte-sequence notation of 00_scope.md R10 and R11. -/

namespace Sys2Proof.Machine

/-- `zext_16(v)` of a byte (R10). -/
def zext16 (b : Byte) : Word := b.setWidth 16

/-- `zext_32(v)` of a 16-bit value (R10). -/
def zext32 (w : Word) : RegVal := w.setWidth 32

/-- Bit i of a mask operand (R85). -/
def maskBit (m : Byte) (i : Nat) : Bool := m.getLsbD i

/-- The 16-bit number of two bytes in wire order: `zext_16(hi) << 8 | zext_16(lo)` (R82, R83). -/
def beWord (hi lo : Byte) : Word := (zext16 hi <<< 8) ||| zext16 lo

/-- The two bytes of a 16-bit number in wire order, `[v[15:8], v[7:0]]` (R61, R80). -/
def beBytes (v : Word) : List Byte := [v.extractLsb' 8 8, v.extractLsb' 0 8]

/-- `B[i]`, the byte at offset i from the head (R11). The rules read it only inside the sequence. -/
def byteAt (B : List Byte) (i : Nat) : Byte := B.getD i 0

/-- `B[i .. j)` (R11). -/
def slice (B : List Byte) (i j : Nat) : List Byte := (B.drop i).take (j - i)

end Sys2Proof.Machine
end

