-- ==== Sys2Proof/Machine/Ops.lean ====
section
/-! DEFINITION. The named operations over state that the meanings share: the primitives of 00_scope.md R12 and
the exceptional conditions of 60_exceptions.md. -/

namespace Sys2Proof.Machine

/-- The code of a cause (R211). No register holds it. -/
def Cause.code : Cause → Nat
  | .illegalCommand => 1
  | .txOverflow => 2
  | .txReject => 3

/-- The bit of STATUS that records a cause (R211). -/
def Cause.statusBit : Cause → Nat
  | .illegalCommand => 0
  | .txOverflow => 1
  | .txReject => 2

/-- `raise <Cause>`: sets the STATUS flag named for the cause and does nothing else; there is no trap and no
transfer of control (R12, R210, R217). -/
def raise (c : Cause) (s : State) : State :=
  match c with
  | .illegalCommand => { s with ill := true }
  | .txOverflow => { s with txOvf := true }
  | .txReject => { s with txRej := true }

/-- The flag of a cause goes back to 0: what stands here for a return from the condition (R218). -/
def acknowledge (c : Cause) (s : State) : State :=
  match c with
  | .illegalCommand => { s with ill := false }
  | .txOverflow => { s with txOvf := false }
  | .txReject => { s with txRej := false }

/-- `hold`: the transaction is not performed now, and the state is unchanged (R12). -/
def hold (s : State) : Host.Outcome State Fault Refusal := .next s

/-- `emit`: enqueue(EVQ, e) (R12). -/
def emit (e : Event) (s : State) : State := { s with evq := s.evq ++ [e] }

/-- The bytes of B join the tail of TXQ. -/
def enqueueTx (B : List Byte) (s : State) : State := { s with txq := s.txq ++ B }

/-- `RXB <- drop(RXB, n)`. -/
def dropRx (n : Nat) (s : State) : State := { s with rxb := s.rxb.drop n }

/-- `TXB <- []`: the payload being built is gone. -/
def clearTxb (s : State) : State := { s with txb := [] }

/-- `sat_inc32` (43_synchronizer.md R166): the counter never wraps to 0. -/
def satInc32 (c : RegVal) : RegVal := if c < 0xFFFFFFFF then c + 1 else 0xFFFFFFFF

end Sys2Proof.Machine
end

