-- ==== Sys2Proof/Machine/Control.lean ====
section
/-! DEFINITION. CTL (44_control.md): NOP, CLR_STATUS, the action of an illegal word, and RESET
(70_reset_and_hazards.md R240). -/

namespace Sys2Proof.Machine

/-- NOP (R192): no state change. -/
def execNop (s : State) : Host.Outcome State Fault Refusal := .next s

/-- CLR_STATUS m (R193): bit 0 of the mask clears ILL, bit 2 clears TX_REJ; TX_OVF cannot be cleared (log 15 for a
mask that no command word carries). -/
def execClrStatus (m : Byte) (s : State) : Host.Outcome State Fault Refusal :=
  let s := if maskBit m 0 then acknowledge .illegalCommand s else s
  .next (if maskBit m 2 then acknowledge .txReject s else s)

/-- ILLEGAL (R194): the word raises IllegalCommand, and nothing else changes. -/
def illegalWord (s : State) : State := raise .illegalCommand s

/-- RESET (R240, R241): every element of the state of R22 takes its reset value; the parameters stay (R243). What the
agents hold is outside the block; the host gives up its outstanding word when it does not offer it again (R242). -/
def resetBlock (reoffer : Bool) (s : State) : State :=
  { State.resetWith s.config with
    cmds := if reoffer then s.cmds else s.cmds.tail
    turns := s.turns
    reads := s.reads
    taken := s.taken
    sent := s.sent }

end Sys2Proof.Machine
end

