-- ==== Sys2Proof/Machine/Crc.lean ====
section
/-! DEFINITION. CRCU, the CRC-16/USB generator (40_crc.md): the checksum function, its unreflected twin, and the
commands CRC_INIT and CRC_UPDATE. -/

namespace Sys2Proof.Machine

/-- One shift of the reflected register: the body of the loop of R101. -/
def crcShift (t : Word) : Word :=
  if t.getLsbD 0 then (t >>> 1) ^^^ Config.crcPolyReflected else t >>> 1

/-- `crc_step(s, b)`: one byte step of the reflected shift register (R101). -/
def crcStep (s : Word) (b : Byte) : Word := Nat.repeat crcShift 8 (s ^^^ zext16 b)

/-- The register after the bytes of D, from s: the loop of R102 and of a sequence of CRC_UPDATEs (R106). -/
def crcRun (s : Word) (D : List Byte) : Word := D.foldl crcStep s

/-- `crc16usb(D)` (R102), the checksum of a byte sequence. -/
def crc16usb (D : List Byte) : Word := crcRun Config.crcInit D ^^^ Config.crcXorOut

/-- One shift of the unreflected register: the inner loop of R103. -/
def crcShiftUnreflected (m : Word) : Word :=
  if m.getLsbD 15 then (m <<< 1) ^^^ Config.crcPoly else m <<< 1

/-- One byte of the loop of R103. -/
def crcStepUnreflected (m : Word) (b : Byte) : Word :=
  Nat.repeat crcShiftUnreflected 8 (m ^^^ (zext16 b.reverse <<< 8))

/-- The equivalent definition in unreflected form, for crosschecking (R103). Where the two differ, R102 governs. -/
def crc16usbUnreflected (D : List Byte) : Word :=
  (D.foldl crcStepUnreflected 0xFFFF).reverse ^^^ 0xFFFF

/-- CRC_INIT (R104): `CRC_STATE <- 0xFFFF`. -/
def execCrcInit (s : State) : Host.Outcome State Fault Refusal :=
  .next { s with crcState := Config.crcInit }

/-- CRC_UPDATE b (R105): `CRC_STATE <- crc_step(CRC_STATE, b)`. -/
def execCrcUpdate (b : Byte) (s : State) : Host.Outcome State Fault Refusal :=
  .next { s with crcState := crcStep s.crcState b }

end Sys2Proof.Machine
end

