-- ==== Sys2Proof/Machine/Encoder.lean ====
section
/-! DEFINITION. ENC, the frame encoder (41_encoder.md): `encode`, the commands TX_PUSH, TX_COMMIT and TX_ABORT, and
the TX sink's TX_POP. -/

namespace Sys2Proof.Machine

/-- H, the big-endian length field of a payload (R120). -/
def lengthField (P : List Byte) : List Byte := beBytes (BitVec.ofNat 16 P.length)

/-- C, the checksum of the length field followed by the payload (R120, R83). -/
def frameCrc (P : List Byte) : Word := crc16usb (lengthField P ++ P)

/-- The frame of a payload (30_encoding.md R80): marker, length, payload, checksum. -/
def frameOf (P : List Byte) : List Byte :=
  [Config.marker, Config.marker] ++ lengthField P ++ P ++ beBytes (frameCrc P)

/-- `encode(P)` (R120). It is not defined for a payload of more than 65535 bytes. -/
def encodeFrame (P : List Byte) : Option (List Byte) :=
  if P.length ≤ Config.maxPayload then some (frameOf P) else none

/-- TX_PUSH b (R121). It never holds. -/
def execTxPush (b : Byte) (s : State) : Host.Outcome State Fault Refusal :=
  if s.txOvf then .next s
  else if s.txb.length = Config.maxPayload then .next (raise .txOverflow s)
  else .next { s with txb := s.txb ++ [b] }

/-- The commit of an overflowed payload is refused: nothing is placed in TXQ (R122, first case). -/
def rejectCommit (s : State) : State := acknowledge .txOverflow (clearTxb (raise .txReject s))

/-- The frame F is queued whole, and the payload buffer is empty again (R122). -/
def commitFrame (F : List Byte) (s : State) : State := clearTxb (enqueueTx F s)

/-- TXQ has less free space than the frame needs: `TXQ_CAP − len(TXQ) < len(F)` (R122). -/
def txqLacksRoom (F : List Byte) (s : State) : Bool := decide (s.config.txqCap - s.txq.length < F.length)

/-- TX_COMMIT (R122). The overflow test comes before the hold test (R216). -/
def execTxCommit (s : State) : Host.Outcome State Fault Refusal :=
  if s.txOvf then .next (rejectCommit s)
  else
    match encodeFrame s.txb with
    | none => .fault .encodeNotDefined
    | some F => if txqLacksRoom F s then hold s else .next (commitFrame F s)

/-- TX_COMMIT is held in this state (R122, R191). -/
def txCommitHeld (s : State) : Bool :=
  !s.txOvf &&
    match encodeFrame s.txb with
    | none => false
    | some F => txqLacksRoom F s

/-- TX_ABORT (R123): `TXB <- []; TX_OVF <- 0`. -/
def execTxAbort (s : State) : Host.Outcome State Fault Refusal :=
  .next (acknowledge .txOverflow (clearTxb s))

/-- TX_POP (R124): the TX sink takes the head of TXQ. On an empty TXQ the sink has no step. -/
def txPop (s : State) : State :=
  match s.txq with
  | [] => s
  | b :: rest => { s with txq := rest, sent := s.sent ++ [b] }

end Sys2Proof.Machine
end

