-- ==== Sys2Proof/Machine/Decoder.lean ====
section
/-! DEFINITION. The single-frame decoder `try_decode` (42_decoder.md): marker detector, length parser, checksum
validator. -/

namespace Sys2Proof.Machine

/-- The four outcomes of `try_decode` (R140). -/
inductive DecodeOutcome where
  | incomplete
  | notAligned
  | valid (length : Word) (payload : List Byte) (declaredCrc : Word)
  | invalid (length : Word) (payload : List Byte) (declaredCrc computedCrc : Word)
deriving DecidableEq, Repr

/-- The declared length at the head of B: `(B[2] << 8) | B[3]` (R82, R141). -/
def declaredLength (B : List Byte) : Word := beWord (byteAt B 2) (byteAt B 3)

/-- B begins with the start marker: the marker detector (R141). -/
def markerAtHead (B : List Byte) : Bool := byteAt B 0 == Config.marker && byteAt B 1 == Config.marker

/-- The checksum validator on a candidate of length L whose bytes are all there (R141, R83). -/
def checkCandidate (B : List Byte) (L : Word) : DecodeOutcome :=
  let P := slice B 4 (4 + L.toNat)
  let D := beWord (byteAt B (4 + L.toNat)) (byteAt B (5 + L.toNat))
  let K := crc16usb (slice B 2 (4 + L.toNat))
  if D = K then .valid L P D else .invalid L P D K

/-- `try_decode(B)` (R141), the tests in the order written (90_conflicts.md C5). -/
def tryDecode (B : List Byte) : DecodeOutcome :=
  if B.length < Config.minFrame then .incomplete
  else if !markerAtHead B then .notAligned
  else if B.length < Config.minFrame + (declaredLength B).toNat then .incomplete
  else checkCandidate B (declaredLength B)

/-- The bytes an outcome tells the caller to consume from the head (R142). -/
def DecodeOutcome.consumes : DecodeOutcome → Nat
  | .incomplete => 0
  | .notAligned => 1
  | .valid L _ _ => 6 + L.toNat
  | .invalid L _ _ _ => 6 + L.toNat

end Sys2Proof.Machine
end

