-- ==== Sys2Proof/Machine/Flags.lean ====
section
/-! DEFINITION. STATUS (10_state.md R32): the stored flags are fields of State, the live bits are functions of the
state at the moment of the read. -/

namespace Sys2Proof.Machine

/-- STATUS bit 3: `len(EVQ) = EVQ_CAP`. -/
def evqFull (s : State) : Bool := s.evq.length == s.config.evqCap

/-- STATUS bit 4: `len(EVQ) > 0`. -/
def evqNe (s : State) : Bool := decide (s.evq.length > 0)

/-- STATUS bit 5: `len(RXB) ≥ 2 and RXB[0] = 0xAA and RXB[1] = 0xAA`. -/
def rxCand (s : State) : Bool :=
  decide (s.rxb.length ≥ 2) && byteAt s.rxb 0 == Config.marker && byteAt s.rxb 1 == Config.marker

/-- STATUS bit 6: `len(TXQ) > 0`. -/
def txqNe (s : State) : Bool := decide (s.txq.length > 0)

/-- A 32-bit value whose bit n is b and whose other bits are 0. -/
def flagAt (b : Bool) (n : Nat) : RegVal := if b then 1 <<< n else 0

/-- STATUS as it reads: bits 6:0 named, bits 31:7 read 0 (R32). -/
def statusWord (s : State) : RegVal :=
  flagAt s.ill 0 ||| flagAt s.txOvf 1 ||| flagAt s.txRej 2 ||| flagAt (evqFull s) 3 ||| flagAt (evqNe s) 4
    ||| flagAt (rxCand s) 5 ||| flagAt (txqNe s) 6

end Sys2Proof.Machine
end

