-- ==== Sys2Proof/Machine/Synchronizer.lean ====
section
/-! DEFINITION. SYNC, the frame synchronizer (43_synchronizer.md): the decode step and the loop, the commands RX_PUSH
and RX_CLEAR, and the event consumer's EVT_POP. -/

namespace Sys2Proof.Machine

/-- The event of a Valid outcome (R160, R28): both checksums are the same. -/
def validEvent (L : Word) (P : List Byte) (D : Word) : Event :=
  { kind := .valid, length := L, payload := P, declaredCrc := D, computedCrc := D }

/-- The event of an Invalid outcome (R160, R28). -/
def invalidEvent (L : Word) (P : List Byte) (D K : Word) : Event :=
  { kind := .invalid, length := L, payload := P, declaredCrc := D, computedCrc := K }

/-- `sync_step()` (R160). The Incomplete outcome takes no step. -/
def syncStep (s : State) : State :=
  match tryDecode s.rxb with
  | .incomplete => s
  | .notAligned => { dropRx 1 s with resyncCount := satInc32 s.resyncCount }
  | .valid L P D => emit (validEvent L P D) (dropRx (6 + L.toNat) s)
  | .invalid L P D K => emit (invalidEvent L P D K) (dropRx (6 + L.toNat) s)

/-- RXB is quiescent: no further decode step is possible (R161). -/
def quiescent (B : List Byte) : Bool := tryDecode B == .incomplete

/-- The loop of R161, at most `fuel` times round. -/
def syncLoop : Nat → State → State
  | 0, s => s
  | fuel + 1, s =>
    if Config.minFrame ≤ s.rxb.length ∧ quiescent s.rxb = false then syncLoop fuel (syncStep s) else s

/-- `sync_run()` (R161). Every step removes at least one byte, so `len(RXB)` rounds are enough (log 9). -/
def syncRun (s : State) : State := syncLoop s.rxb.length s

/-- One byte joins the tail of RXB, and the loop runs, in the same transaction (R162). -/
def acceptByte (b : Byte) (s : State) : State := syncRun { s with rxb := s.rxb ++ [b] }

/-- RX_PUSH is held in this state: EVQ is full (R163). -/
def rxPushHeld (s : State) : Bool := evqFull s

/-- RX_PUSH b (R162). -/
def execRxPush (b : Byte) (s : State) : Host.Outcome State Fault Refusal :=
  if rxPushHeld s then hold s else .next (acceptByte b s)

/-- RX_CLEAR (R164): `RXB <- []`. -/
def execRxClear (s : State) : Host.Outcome State Fault Refusal := .next { s with rxb := [] }

/-- EVT_POP (R165): the event consumer takes the oldest event. On an empty EVQ the consumer has no step. -/
def evtPop (s : State) : State :=
  match s.evq with
  | [] => s
  | e :: rest => { s with evq := rest, taken := s.taken ++ [e] }

/-- The document's process on chunks (R168): append a chunk, then loop, for each chunk in turn. -/
def feedChunks (chunks : List (List Byte)) (s : State) : State :=
  chunks.foldl (fun t chunk => syncRun { t with rxb := t.rxb ++ chunk }) s

/-- EventKind on the event port: 0 = VALID, 1 = INVALID (30_encoding.md R91). -/
def EventKind.bit : EventKind → BitVec 1
  | .valid => 0
  | .invalid => 1

end Sys2Proof.Machine
end

