-- ==== Sys2Proof/Machine/Dispatch.lean ====
section
/-! DEFINITION. The meaning of each command (44_control.md R191): one arm per constructor of Instr. -/

namespace Sys2Proof.Machine

def exec (i : Instr) (s : State) : Host.Outcome State Fault Refusal :=
  match i with
  | .nop => Sys2Proof.Machine.execNop s
  | .crcInit => Sys2Proof.Machine.execCrcInit s
  | .crcUpdate b => Sys2Proof.Machine.execCrcUpdate b s
  | .rxPush b => Sys2Proof.Machine.execRxPush b s
  | .rxClear => Sys2Proof.Machine.execRxClear s
  | .txPush b => Sys2Proof.Machine.execTxPush b s
  | .txCommit => Sys2Proof.Machine.execTxCommit s
  | .txAbort => Sys2Proof.Machine.execTxAbort s
  | .clrStatus m => Sys2Proof.Machine.execClrStatus m s

end Sys2Proof.Machine
end

