-- ==== Sys2Proof/Machine/Registers.lean ====
section
/-! DEFINITION. The register map and the register read transaction (10_state.md R33, 44_control.md R195). -/

namespace Sys2Proof.Machine

/-- A level register of n bits: every bit the map does not name reads 0 (R33; log 8 for lengths past n bits, which no
run reaches). -/
def levelValue (n len : Nat) : RegVal := (BitVec.ofNat n len).setWidth 32

/-- `value(idx)`: the column of R33, computed from the current state. Unmapped indexes read 0. -/
def regValue (idx : Byte) (s : State) : RegVal :=
  if idx = 0x00 then statusWord s
  else if idx = 0x01 then zext32 s.crcState
  else if idx = 0x02 then zext32 (s.crcState ^^^ Config.crcXorOut)
  else if idx = 0x03 then levelValue 17 s.rxb.length
  else if idx = 0x04 then s.resyncCount
  else if idx = 0x05 then levelValue 16 s.txb.length
  else if idx = 0x06 then levelValue 32 s.evq.length
  else if idx = 0x07 then levelValue 32 s.txq.length
  else if idx = 0x08 then levelValue 32 s.config.evqCap
  else if idx = 0x09 then levelValue 32 s.config.txqCap
  else 0

/-- REG_READ(idx) (R195): the host receives the value; the block is unchanged. -/
def regRead (idx : Byte) (s : State) : State := { s with reads := s.reads ++ [(idx, regValue idx s)] }

end Sys2Proof.Machine
end

