-- ==== Sys2Proof/Machine/Ports.lean ====
section
/-! DEFINITION. The ports (44_control.md R190, R191; 30_encoding.md R95): what one agent's turn does. -/

namespace Sys2Proof.Machine

/-- The command is held in this state: only RX_PUSH and TX_COMMIT can hold (R191). -/
def held (i : Instr) (s : State) : Bool :=
  match i with
  | .nop => false
  | .crcInit => false
  | .crcUpdate _ => false
  | .rxPush _ => rxPushHeld s
  | .rxClear => false
  | .txPush _ => false
  | .txCommit => txCommitHeld s
  | .txAbort => false
  | .clrStatus _ => false

/-- EXEC(W) of the host's outstanding word (R191). A performed word leaves the host's list; a held one stays at its
head, so that no later word can pass it. -/
def offerCommand (s : State) : Host.Outcome State Fault Refusal :=
  match s.cmds with
  | [] => .next s
  | w :: ws =>
    match decode w with
    | .ok i => if held i s then hold s else exec i { s with cmds := ws }
    | .error _ => .next (illegalWord { s with cmds := ws })

/-- One agent's turn at its port. -/
def runTurn (t : Turn) (s : State) : Host.Outcome State Fault Refusal :=
  match t with
  | .command => offerCommand s
  | .regRead idx => .next (regRead idx s)
  | .evtPop => .next (evtPop s)
  | .txPop => .next (txPop s)
  | .reset reoffer => .next (resetBlock reoffer s)

/-- The host's outstanding word is not held by the rule it dispatches to; an illegal word never holds (R194). -/
def commandEnabled (s : State) : Bool :=
  match s.cmds with
  | [] => false
  | w :: _ =>
    match decode w with
    | .ok i => !held i s
    | .error _ => true

/-- The column "enabled when" of R190. -/
def enabled (t : Turn) (s : State) : Bool :=
  match t with
  | .command => commandEnabled s
  | .regRead _ => true
  | .evtPop => evqNe s
  | .txPop => txqNe s
  | .reset _ => true

end Sys2Proof.Machine
end

