-- ==== Sys2Proof/Machine/Step.lean ====
section
/-! DEFINITION. One step: the next agent in the order of `turns` comes to its port (44_control.md R190). -/

namespace Sys2Proof.Machine

/-- One step takes the first turn. With no turn left no agent offers anything, and the state stays (log 2). -/
def step (s : State) : Host.Outcome State Fault Refusal :=
  match s.turns with
  | [] => .next s
  | t :: ts => runTurn t { s with turns := ts }

/-- FSYNC fetches nothing (20_memory.md R74): a command is run by the host offering its word. So the word becomes the
host's outstanding one, and the next turn is the host's at the command port (log 3, log 11). -/
def State.withFetchWord (s : State) (nbits w : Nat) : State :=
  { s with
    cmds := BitVec.ofNat 16 (w % 2 ^ nbits) :: s.cmds
    turns := .command :: s.turns }

end Sys2Proof.Machine
end

