-- ==== Sys2Proof/Machine/Assembler.lean ====
section
/-! DEFINITION. The assembler syntax and the pseudo-instructions (30_encoding.md R93, R94): how a host's listing becomes
command words. No toolchain exists in any source, so what R93 leaves open of the lexical form is log 13. -/

namespace Sys2Proof.Machine

/-- The pseudo-instructions of R94; `h` names a string of bytes. -/
inductive Pseudo where
  | rxFeed (h : List Byte)
  | txSend (h : List Byte)
  | crcOf (h : List Byte)
  | clrAll
deriving DecidableEq, Repr

/-- Their expansions (R94). -/
def Pseudo.expand : Pseudo → List Instr
  | .rxFeed h => h.map .rxPush
  | .txSend h => h.map .txPush ++ [.txCommit]
  | .crcOf h => .crcInit :: h.map .crcUpdate
  | .clrAll => [.clrStatus 0x05]

/-- The command words of a pseudo-instruction. -/
def Pseudo.words (p : Pseudo) : List Word := p.expand.map encode

/-- A blank separates the parts of a line (log 13). -/
def isBlank (c : Char) : Bool := c == ' ' || c == '\t'

/-- The blank-separated tokens of a line; `cur` holds the letters of the token being read. -/
def tokensFrom : List Char → List Char → List (List Char)
  | cur, [] => if cur.isEmpty then [] else [cur]
  | cur, c :: cs =>
    if isBlank c then (if cur.isEmpty then tokensFrom [] cs else cur :: tokensFrom [] cs)
    else tokensFrom (cur ++ [c]) cs

/-- The line without its comment, `[';' comment]`. -/
def stripComment (cs : List Char) : List Char := cs.takeWhile (· != ';')

/-- The line without its label, `[label ':']`. The label is one token; no command reads it (R93). -/
def stripLabel (cs : List Char) : Option (List Char) :=
  match cs.dropWhile (· != ':') with
  | [] => some cs
  | _ :: rest => if (tokensFrom [] (cs.takeWhile (· != ':'))).length = 1 then some rest else none

/-- The value of a hex digit, in either case (log 13). -/
def hexDigit (c : Char) : Option Nat :=
  if '0'.toNat ≤ c.toNat ∧ c.toNat ≤ '9'.toNat then some (c.toNat - '0'.toNat)
  else if 'A'.toNat ≤ c.toNat ∧ c.toNat ≤ 'F'.toNat then some (c.toNat - 'A'.toNat + 10)
  else if 'a'.toNat ≤ c.toNat ∧ c.toNat ≤ 'f'.toNat then some (c.toNat - 'a'.toNat + 10)
  else none

/-- The byte of two hex digits, the most significant first. -/
def hexByte (a b : Char) : Option Byte :=
  match hexDigit a, hexDigit b with
  | some x, some y => some (BitVec.ofNat 8 (16 * x + y))
  | _, _ => none

/-- The bytes of a string of an even number of hex digits (R94). -/
def hexString : List Char → Option (List Byte)
  | [] => some []
  | [_] => none
  | a :: b :: rest =>
    match hexByte a b, hexString rest with
    | some x, some xs => some (x :: xs)
    | _, _ => none

/-- The number of a string of decimal digits, read on from `acc`. -/
def decimalFrom : Nat → List Char → Option Nat
  | acc, [] => some acc
  | acc, c :: cs =>
    if '0'.toNat ≤ c.toNat ∧ c.toNat ≤ '9'.toNat then decimalFrom (10 * acc + (c.toNat - '0'.toNat)) cs else none

/-- `decimal 0..255` (R93). DESIGN CHOICE (log 13): leading zeros are read as digits, as in 007 or 0255; R93 does not say. -/
def decimalByte (cs : List Char) : Option Byte :=
  match cs, decimalFrom 0 cs with
  | [], _ => none
  | _ :: _, some n => if n < 256 then some (BitVec.ofNat 8 n) else none
  | _ :: _, none => none

/-- `byte := '0x' hexdigit hexdigit | decimal 0..255` (R93). -/
def byteOperand : List Char → Option Byte
  | ['0', 'x', a, b] => hexByte a b
  | cs => decimalByte cs

/-- A mnemonic written without an operand; a pseudo-instruction with an empty string (R93, R94). -/
def assembleBare (m : List Char) : Option (List Instr) :=
  if m = "NOP".toList then some [.nop]
  else if m = "CRC_INIT".toList then some [.crcInit]
  else if m = "RX_CLEAR".toList then some [.rxClear]
  else if m = "TX_COMMIT".toList then some [.txCommit]
  else if m = "TX_ABORT".toList then some [.txAbort]
  else if m = "RX_FEED".toList then some (Pseudo.expand (.rxFeed []))
  else if m = "TX_SEND".toList then some (Pseudo.expand (.txSend []))
  else if m = "CRC_OF".toList then some (Pseudo.expand (.crcOf []))
  else if m = "CLR_ALL".toList then some (Pseudo.expand .clrAll)
  else none

/-- A mnemonic with its operand (R93, R94). -/
def assembleWithOperand (m x : List Char) : Option (List Instr) :=
  if m = "CRC_UPDATE".toList then (byteOperand x).map fun b => [.crcUpdate b]
  else if m = "RX_PUSH".toList then (byteOperand x).map fun b => [.rxPush b]
  else if m = "TX_PUSH".toList then (byteOperand x).map fun b => [.txPush b]
  else if m = "CLR_STATUS".toList then (byteOperand x).map fun b => [.clrStatus b]
  else if m = "RX_FEED".toList then (hexString x).map fun h => Pseudo.expand (.rxFeed h)
  else if m = "TX_SEND".toList then (hexString x).map fun h => Pseudo.expand (.txSend h)
  else if m = "CRC_OF".toList then (hexString x).map fun h => Pseudo.expand (.crcOf h)
  else none

/-- The commands of one line's tokens. -/
def assembleTokens : List (List Char) → Option (List Instr)
  | [m] => assembleBare m
  | [m, x] => assembleWithOperand m x
  | _ => none

/-- `line := [label ':'] mnemonic [operand] [';' comment]` (R93): the words of one line. -/
def assembleLine (line : String) : Option (List Word) :=
  match stripLabel (stripComment line.toList) with
  | none => none
  | some cs => (assembleTokens (tokensFrom [] cs)).map fun is => is.map encode

/-- A listing, one command a line (R93). -/
def assemble : List String → Option (List Word)
  | [] => some []
  | line :: rest =>
    match assembleLine line, assemble rest with
    | some ws, some more => some (ws ++ more)
    | _, _ => none

/-- The digit of a value below 16. -/
def hexChar (n : Nat) : Char := if n < 10 then Char.ofNat ('0'.toNat + n) else Char.ofNat ('A'.toNat + (n - 10))

/-- A word "written as four hex digits" (R93). -/
def hexOfWord (w : Word) : String :=
  String.ofList
    [hexChar (w.extractLsb' 12 4).toNat, hexChar (w.extractLsb' 8 4).toNat, hexChar (w.extractLsb' 4 4).toNat,
     hexChar (w.extractLsb' 0 4).toNat]

end Sys2Proof.Machine
end

