-- ==== Sys2Proof/Safety.lean ====
section
/-! DEFINITION. The terms the claims are stated in: runs, which transaction a step performs, the invariants of
10_state.md R38, and what the host's pushes amount to. -/

namespace Sys2Proof.Machine

/-- k steps of the machine. -/
def run (k : Nat) (s : State) : Host.Outcome State Fault Refusal := Host.Core.run Sys2Proof.core k s

/-- The outcome with its next state changed by f. -/
def mapNext (f : State → State) : Host.Outcome State Fault Refusal → Host.Outcome State Fault Refusal
  | .next s => .next (f s)
  | .fault r => .fault r
  | .refused r => .refused r

/-- The host offers the words of ws, one turn each, before anything else happens. -/
def offering (ws : List Word) (s : State) : State :=
  { s with
    cmds := ws ++ s.cmds
    turns := List.replicate ws.length .command ++ s.turns }

/-- A transaction of R190 or R95, an illegal word apart. -/
inductive Action where
  | exec (i : Instr)
  | illegal (w : Word)
  | regRead (idx : Byte)
  | evtPop
  | txPop
  | reset (reoffer : Bool)
deriving DecidableEq, Repr

/-- The transaction the host's turn at the command port performs; none when the word is held or there is none. -/
def performedCommand (s : State) : Option Action :=
  match s.cmds with
  | [] => none
  | w :: _ =>
    match decode w with
    | .ok i => if held i s then none else some (.exec i)
    | .error _ => some (.illegal w)

/-- The transaction that `step s` performs; none when the agent whose turn it is waits, or no agent has a turn. -/
def performed (s : State) : Option Action :=
  match s.turns with
  | [] => none
  | .command :: _ => performedCommand s
  | .regRead idx :: _ => some (.regRead idx)
  | .evtPop :: _ => if evqNe s then some .evtPop else none
  | .txPop :: _ => if txqNe s then some .txPop else none
  | .reset r :: _ => some (.reset r)

/-- The tuple of R22 and the parameters are the same in both states. -/
structure SameBlock (s t : State) : Prop where
  config : t.config = s.config
  crcState : t.crcState = s.crcState
  rxb : t.rxb = s.rxb
  resyncCount : t.resyncCount = s.resyncCount
  evq : t.evq = s.evq
  txb : t.txb = s.txb
  txq : t.txq = s.txq
  ill : t.ill = s.ill
  txOvf : t.txOvf = s.txOvf
  txRej : t.txRej = s.txRej

/-- What R38 item 5 says of an Event record. -/
structure Event.Consistent (e : Event) : Prop where
  payload_length : e.payload.length = e.length.toNat
  valid_iff : e.kind = .valid ↔ e.declaredCrc = e.computedCrc

/-- R38 item 6: whole frames made by `encode`, but that the head frame may have lost some of its leading bytes. -/
def FramedBytes (q : List Byte) : Prop :=
  ∃ (partHead P : List Byte) (rest : List (List Byte)),
    q = partHead ++ (rest.map frameOf).flatten ∧ partHead <:+ frameOf P ∧ P.length ≤ Config.maxPayload ∧
      ∀ p ∈ rest, p.length ≤ Config.maxPayload

/-- The invariants of R38, in its order, over legal parameters (R9). -/
structure Invariants (s : State) : Prop where
  legal : s.config.Legal
  rxb_length : s.rxb.length ≤ 65540
  rxb_quiescent : quiescent s.rxb = true
  txb_length : s.txb.length ≤ Config.maxPayload
  ovf_full : s.txOvf = true → s.txb.length = Config.maxPayload
  evq_length : s.evq.length ≤ s.config.evqCap
  txq_length : s.txq.length ≤ s.config.txqCap
  events : ∀ e ∈ s.evq, e.Consistent
  frames : FramedBytes s.txq

/-- The host gives the bytes of bs to RX_PUSH one by one, and EVQ never stops a push; none when it does. -/
def pushAll : List Byte → State → Option State
  | [], s => some s
  | b :: bs, s =>
    if held (.rxPush b) s then none
    else
      match exec (.rxPush b) s with
      | .next t => pushAll bs t
      | .fault _ => none
      | .refused _ => none

/-- The event of a received frame that carries P (R126). -/
def frameEvent (P : List Byte) : Event := validEvent (BitVec.ofNat 16 P.length) P (frameCrc P)

/-- The bytes given to CRCU since the last CRC_INIT or reset (R106), after one more transaction. -/
def crcBytesAfter (D : List Byte) : Option Action → List Byte
  | some (.exec (.crcUpdate b)) => D ++ [b]
  | some (.exec .crcInit) => []
  | some (.reset _) => []
  | _ => D

/-- The bytes pushed since the last TX_COMMIT, TX_ABORT or reset (R125), after one more transaction. -/
def payloadAfter (P : List Byte) : Option Action → List Byte
  | some (.exec (.txPush b)) => P ++ [b]
  | some (.exec .txCommit) => []
  | some (.exec .txAbort) => []
  | some (.reset _) => []
  | _ => P

/-- TXB and TX_OVF are what the pushed bytes P make them (R121). -/
def PayloadTracked (P : List Byte) (s : State) : Prop :=
  (P.length ≤ Config.maxPayload ∧ s.txb = P ∧ s.txOvf = false) ∨
    (Config.maxPayload < P.length ∧ s.txb = P.take Config.maxPayload ∧ s.txOvf = true)

/-- B with bit j of the byte at offset k flipped. -/
def flipBit (B : List Byte) (k j : Nat) : List Byte := B.set k (byteAt B k ^^^ (1#8 <<< j))

/-- Two adjacent marker bytes at offset i of S. -/
def markerAt (S : List Byte) (i : Nat) : Prop := byteAt S i = Config.marker ∧ byteAt S (i + 1) = Config.marker

/-- The word numbered n decodes to a command of the row with this match value. -/
def isWordOf (pattern : Word) (n : Nat) : Bool :=
  match decode (BitVec.ofNat 16 n) with
  | .ok i => i.row.pattern == pattern
  | .error _ => false

/-- The word numbered n is illegal. -/
def isIllegalWord (n : Nat) : Bool :=
  match decode (BitVec.ofNat 16 n) with
  | .ok _ => false
  | .error _ => true

/-- How many of the 65536 words decode to a command of the row with this match value (R87). -/
def legalWordsOf (pattern : Word) : Nat := ((Finset.range 65536).filter fun n => isWordOf pattern n = true).card

/-- How many of the 65536 words are illegal (R87). -/
def illegalWords : Nat := ((Finset.range 65536).filter fun n => isIllegalWord n = true).card

end Sys2Proof.Machine
end

