-- ==== Sys2Proof/Certificates/Slice0/Obligations.lean ====
section
/-! DEFINITION. The statements about FSYNC. Each is a Prop; none is proved here. Where a statement speaks of the agents'
side (`cmds`, `turns`, `reads`, `taken`, `sent`), it speaks of the model's own fields, logs 2 to 6. -/

open Sys2Proof Sys2Proof.Machine

/-! ## Encodings -/

/-- R86: the decoder and the opcode map agree. A word decodes to the command whose row it meets, with its IMM as the
operand; a word that meets a row decodes; no word meets two rows. -/
def Obligations.DecodeFollowsOpcodeMap : Prop :=
  (∀ w i, decode w = .ok i ↔ i.row.meets w = true ∧ i.operand = immField w) ∧
  (∀ w, ∀ r ∈ opcodeTable, r.meets w = true → ∃ i, decode w = .ok i ∧ i.row = r) ∧
  opcodeTable.Pairwise (fun r r' => ∀ w, ¬(r.meets w = true ∧ r'.meets w = true))

/-- R87: every word meets exactly one row or is illegal, and the counts of legal words by command. -/
def Obligations.LegalWordsAreCounted : Prop :=
  (∀ w, (∃ r ∈ opcodeTable, r.meets w = true ∧ (∀ r' ∈ opcodeTable, r'.meets w = true → r' = r) ∧ ∃ i, decode w = .ok i) ∨
      ((∀ r ∈ opcodeTable, r.meets w = false) ∧ ∃ e, decode w = .error e)) ∧
  (∀ p ∈ [0x0000, 0x0100, 0x1100, 0x2100, 0x2200], legalWordsOf p = 1) ∧
  (∀ p ∈ [0x0200, 0x1000, 0x2000], legalWordsOf p = 256) ∧
  legalWordsOf 0x3000 = 4 ∧
  (∀ w i, decode w = .ok i → i.row.pattern = 0x3000 → w ∈ ([0x3000, 0x3001, 0x3004, 0x3005] : List Word)) ∧
  illegalWords = 65536 - 777

/-- R88: which words are illegal, by the three cases; each sets ILL and changes nothing else of the block, and it never
stops or holds. -/
def Obligations.IllegalWordsByCase : Prop :=
  (∀ w, (∃ e, decode w = .error e) ↔
    opcField w ∉ ([0x00, 0x01, 0x02, 0x10, 0x11, 0x20, 0x21, 0x22, 0x30] : List Byte) ∨
    (opcField w ∈ ([0x00, 0x01, 0x11, 0x21, 0x22] : List Byte) ∧ immField w ≠ 0x00) ∨
    (opcField w = 0x30 ∧ immField w &&& 0xFA ≠ 0)) ∧
  (∀ s w ws ts e, s.turns = .command :: ts → s.cmds = w :: ws → decode w = .error e →
    step s = .next { s with turns := ts, cmds := ws, ill := true })

/-- R84 to R86: decoding the encoding of a well-formed instruction gives it back, at every operand. -/
def Obligations.DecodeOfEncode : Prop := ∀ i : Instr, i.wellFormed = true → decode (encode i) = .ok i

/-- R84 to R87: a word that decodes is the encoding of the instruction it decodes to, which is well formed: no two words
stand for one instruction. -/
def Obligations.EncodeOfDecode : Prop := ∀ w i, decode w = .ok i → encode i = w ∧ i.wellFormed = true

/-- R86: sample words of every family, written out from the opcode map, decode to the commands they stand for. -/
def Obligations.SampleWordsDecode : Prop :=
  decode 0x0000 = .ok .nop ∧ decode 0x0100 = .ok .crcInit ∧ decode 0x0231 = .ok (.crcUpdate 0x31) ∧
  decode 0x10AA = .ok (.rxPush 0xAA) ∧ decode 0x1100 = .ok .rxClear ∧ decode 0x20C8 = .ok (.txPush 0xC8) ∧
  decode 0x2100 = .ok .txCommit ∧ decode 0x2200 = .ok .txAbort ∧ decode 0x3005 = .ok (.clrStatus 0x05)

/-- R93, R94: the assembled form of the spec's sample lines, and of TX_SEND and CLR_ALL. -/
def Obligations.SampleLinesAssemble : Prop :=
  assembleLine "RX_PUSH 0xAA" = some [0x10AA] ∧ assembleLine "CLR_STATUS 0x05" = some [0x3005] ∧
  assembleLine "TX_SEND AABBC8" = some [0x20AA, 0x20BB, 0x20C8, 0x2100] ∧
  assembleLine "TX_SEND" = some [0x2100] ∧ assembleLine "RX_FEED" = some [] ∧ assembleLine "CLR_ALL" = some [0x3005] ∧
  assembleLine "CRC_OF 31" = some [0x0100, 0x0231] ∧ hexOfWord 0x10AA = "10AA"

/-! ## Ports and steps -/

/-- R190, R191, in the model's terms (logs 2, 3, 4): the host's turn at the command port runs the decoded instruction when
it is not held; a held word stays the outstanding one; an illegal word sets ILL. Only RX_PUSH and TX_COMMIT hold. -/
def Obligations.StepRunsOfferedCommand : Prop :=
  (∀ s w ws ts, s.turns = .command :: ts → s.cmds = w :: ws →
    (∀ i, decode w = .ok i → held i s = false → step s = exec i { s with turns := ts, cmds := ws }) ∧
    (∀ i, decode w = .ok i → held i s = true → step s = .next { s with turns := ts }) ∧
    (∀ e, decode w = .error e → step s = .next { s with turns := ts, cmds := ws, ill := true })) ∧
  (∀ i s, held i s = true →
    (∃ b, i = .rxPush b) ∧ s.evq.length = s.config.evqCap ∨
    i = .txCommit ∧ s.txOvf = false ∧ s.config.txqCap - s.txq.length < 6 + s.txb.length)

/-- R190: a transaction that is not enabled is not performed: the turn passes and nothing else changes. With no turn left the
state stays (log 2). REG_READ and RESET are always enabled, the pops when their queue is not empty. -/
def Obligations.DisabledTurnChangesNothing : Prop :=
  (∀ s t ts, s.turns = t :: ts → enabled t s = false → step s = .next { s with turns := ts } ∧ performed s = none) ∧
  (∀ s t ts, s.turns = t :: ts → enabled t s = true → performed s ≠ none) ∧
  (∀ s, s.turns = [] → step s = .next s) ∧
  (∀ s idx, enabled (.regRead idx) s = true) ∧ (∀ s r, enabled (.reset r) s = true) ∧
  (∀ s, enabled .evtPop s = true ↔ 0 < s.evq.length) ∧ (∀ s, enabled .txPop s = true ↔ 0 < s.txq.length)

/-- R195: a register read returns the value of the register (recorded with the host, log 6), leaves the block unchanged, and
does so while a command is held as well; every unmapped index reads 0; the example of CRC_OF. -/
def Obligations.RegisterReadReturnsValue : Prop :=
  (∀ s idx ts, s.turns = .regRead idx :: ts →
    step s = .next { s with turns := ts, reads := s.reads ++ [(idx, regValue idx s)] }) ∧
  (∀ s (idx : Byte), 0x0A ≤ idx.toNat → regValue idx s = 0) ∧
  (∀ s, ∃ t, run 10 (offering (Pseudo.words (.crcOf [0x31, 0x32, 0x33, 0x34, 0x35, 0x36, 0x37, 0x38, 0x39])) s) = .next t ∧
    regValue 0x02 t = 0x0000B4C8)

/-- R165: EVT_POP hands over the oldest event (recorded with the consumer, log 6) and leaves the rest; on an empty EVQ the
consumer waits; a pop on a full EVQ releases a held RX_PUSH. -/
def Obligations.EventPopTakesOldest : Prop :=
  (∀ s ts, s.turns = .evtPop :: ts → s.evq = [] → step s = .next { s with turns := ts }) ∧
  (∀ s ts e rest, s.turns = .evtPop :: ts → s.evq = e :: rest →
    step s = .next { s with turns := ts, evq := rest, taken := s.taken ++ [e] }) ∧
  (∀ s ts b, s.turns = .evtPop :: ts → s.config.Legal → held (.rxPush b) s = true →
    ∃ t, step s = .next t ∧ held (.rxPush b) t = false)

/-- R124: TX_POP hands over the head of TXQ (recorded with the sink, log 6); on an empty TXQ the sink waits; six pops empty the
queue of the empty-payload frame, in wire order. -/
def Obligations.TxPopTakesHead : Prop :=
  (∀ s ts, s.turns = .txPop :: ts → s.txq = [] → step s = .next { s with turns := ts }) ∧
  (∀ s ts b rest, s.turns = .txPop :: ts → s.txq = b :: rest →
    step s = .next { s with turns := ts, txq := rest, sent := s.sent ++ [b] }) ∧
  (∀ s ts, s.turns = List.replicate 6 .txPop ++ ts → s.txq = [0xAA, 0xAA, 0x00, 0x00, 0x4F, 0xFE] →
    run 6 s = .next { s with turns := ts, txq := [], sent := s.sent ++ [0xAA, 0xAA, 0x00, 0x00, 0x4F, 0xFE] })

/-- R240, R241: RESET, enabled in every state, gives every element of the block its reset value in one step and keeps the
parameters; after it the registers read as the second table of R241 says. -/
def Obligations.ResetGivesResetValues : Prop :=
  (∀ s r ts, s.turns = .reset r :: ts → enabled (.reset r) s = true ∧
    ∃ t, step s = .next t ∧ t.config = s.config ∧ t.crcState = 0xFFFF ∧ t.rxb = [] ∧ t.resyncCount = 0x00000000 ∧
      t.evq = [] ∧ t.txb = [] ∧ t.txq = [] ∧ t.ill = false ∧ t.txOvf = false ∧ t.txRej = false) ∧
  (∀ s r ts t, s.turns = .reset r :: ts → s.config.Legal → step s = .next t →
    regValue 0x00 t = 0x00000000 ∧ regValue 0x01 t = 0x0000FFFF ∧ regValue 0x02 t = 0x00000000 ∧
    (∀ idx ∈ ([0x03, 0x04, 0x05, 0x06, 0x07] : List Byte), regValue idx t = 0x00000000) ∧
    (regValue 0x08 t).toNat = s.config.evqCap ∧ (regValue 0x09 t).toNat = s.config.txqCap)

/-- R242 in the model's terms (logs 5, 6): RESET leaves what the agents hold, but that the host gives up its outstanding word
when it does not offer it again. -/
def Obligations.ResetLeavesAgents : Prop :=
  ∀ s r ts, s.turns = .reset r :: ts → ∃ t, step s = .next t ∧ t.turns = ts ∧
    t.cmds = (if r then s.cmds else s.cmds.tail) ∧ t.reads = s.reads ∧ t.taken = s.taken ∧ t.sent = s.sent

/-! ## The commands -/

/-- R192: NOP in any state leaves the state unchanged and never holds; its word is 0x0000, and `0x00xx` with xx ≠ 0x00 is
illegal. -/
def Obligations.NopChangesNothing : Prop :=
  (∀ s, exec .nop s = .next s ∧ held .nop s = false) ∧ decode 0x0000 = .ok .nop ∧
  (∀ imm : Byte, imm ≠ 0 → ∃ e, decode (commandWord 0x00 imm) = .error e)

/-- R104: CRC_INIT sets CRC_STATE to 0xFFFF and changes nothing else; CRC_RESULT_R then reads 0; it never holds; a word with
OPC = 0x01 and IMM ≠ 0 is illegal and does not initialise. -/
def Obligations.CrcInitSetsInitialValue : Prop :=
  (∀ s, exec .crcInit s = .next { s with crcState := 0xFFFF } ∧ held .crcInit s = false ∧
    regValue 0x02 { s with crcState := 0xFFFF } = 0x00000000) ∧
  decode 0x0100 = .ok .crcInit ∧
  (∀ imm : Byte, imm ≠ 0 → ∃ e, decode (commandWord 0x01 imm) = .error e) ∧
  (∀ s ws ts (imm : Byte), s.turns = .command :: ts → s.cmds = commandWord 0x01 imm :: ws → imm ≠ 0 →
    ∃ t, step s = .next t ∧ t.crcState = s.crcState)

/-- R105: CRC_UPDATE b shifts b into CRC_STATE and changes nothing else; every IMM is legal; it never holds; the corner cases
and the example. -/
def Obligations.CrcUpdateShiftsByte : Prop :=
  (∀ s b, exec (.crcUpdate b) s = .next { s with crcState := crcStep s.crcState b } ∧ held (.crcUpdate b) s = false) ∧
  (∀ b : Byte, decode (commandWord 0x02 b) = .ok (.crcUpdate b)) ∧
  crcStep 0xFFFF 0xFF = 0x00FF ∧ crcStep 0x0000 0x00 = 0x0000 ∧ crcStep 0xFFFF 0x00 = 0x40BF ∧ crcStep 0xFFFF 0x31 = 0x947E

/-- R162: RX_PUSH b holds while EVQ is full, and otherwise appends b to RXB and runs the decode loop in the same transaction. It
writes no stored flag and nothing but RXB, RESYNC_COUNT and EVQ. From a quiescent RXB it takes at most one decode step, RXB does
not overflow, and an event finds room. A push onto 5 bytes without a marker discards one byte; the example frame is completed by
its last byte. -/
def Obligations.RxPushAppendsAndRunsLoop : Prop :=
  (∀ b : Byte, decode (commandWord 0x10 b) = .ok (.rxPush b)) ∧
  (∀ s b, s.evq.length = s.config.evqCap → exec (.rxPush b) s = .next s) ∧
  (∀ s b, quiescent s.rxb = true → s.evq.length < s.config.evqCap →
    ∃ t, exec (.rxPush b) s = .next t ∧
      (t = { s with rxb := s.rxb ++ [b] } ∨ t = syncStep { s with rxb := s.rxb ++ [b] }) ∧
      (s.rxb ++ [b]).length ≤ 65541 ∧ t.evq.length ≤ s.config.evqCap) ∧
  (∀ s b, s.evq.length ≠ s.config.evqCap →
    exec (.rxPush b) s = .next (syncRun { s with rxb := s.rxb ++ [b] }) ∧
    ∃ t, exec (.rxPush b) s = .next t ∧ t = { s with rxb := t.rxb, resyncCount := t.resyncCount, evq := t.evq }) ∧
  (∀ s b, s.evq.length ≠ s.config.evqCap → s.rxb.length = 5 → markerAtHead s.rxb = false →
    exec (.rxPush b) s = .next { s with rxb := s.rxb.drop 1 ++ [b], resyncCount := satInc32 s.resyncCount }) ∧
  (∀ s, s.rxb = [0xAA, 0xAA, 0x00, 0x03, 0xAA, 0xBB, 0xC8, 0xFD] → s.evq = [] → s.config.Legal →
    exec (.rxPush 0x88) s = .next { s with
      rxb := []
      evq := [{ kind := .valid, length := 3, payload := [0xAA, 0xBB, 0xC8], declaredCrc := 0xFD88, computedCrc := 0xFD88 }] })

/-- R163: RX_PUSH holds while EVQ is full: it has not appended its byte, and it and every later word wait. After an EVT_POP it is
performed. That the held word's turn passes and the word stays outstanding is the model's (logs 2, 3, 4), as is the record of what
the consumer took (log 6). -/
def Obligations.RxPushHoldsWhileEventQueueFull : Prop :=
  (∀ s b, s.evq.length = s.config.evqCap → held (.rxPush b) s = true ∧ exec (.rxPush b) s = .next s) ∧
  (∀ s b, s.evq.length ≠ s.config.evqCap → held (.rxPush b) s = false) ∧
  (∀ s b ws ts e rest, s.turns = [.command, .evtPop, .command] ++ ts → s.cmds = encode (.rxPush b) :: ws →
    s.evq = e :: rest → s.evq.length = s.config.evqCap →
    run 1 s = .next { s with turns := [.evtPop, .command] ++ ts } ∧
    run 3 s = exec (.rxPush b) { s with turns := ts, cmds := ws, evq := rest, taken := s.taken ++ [e] })

/-- R164: RX_CLEAR empties RXB and changes nothing else; RX_CAND and RX_LEVEL become 0; it never holds; it is idempotent. -/
def Obligations.RxClearEmptiesReceiveBuffer : Prop :=
  (∀ s, exec .rxClear s = .next { s with rxb := [] } ∧ held .rxClear s = false ∧ rxCand { s with rxb := [] } = false ∧
    regValue 0x03 { s with rxb := [] } = 0x00000000 ∧ exec .rxClear { s with rxb := [] } = .next { s with rxb := [] }) ∧
  decode 0x1100 = .ok .rxClear

/-- R121: TX_PUSH b appends b; on the 65536th byte of a payload it raises TxOverflow and drops the byte; after that it drops every
byte. It never holds, and CLR_STATUS cannot clear TX_OVF. -/
def Obligations.TxPushAppendsOrOverflows : Prop :=
  (∀ b : Byte, decode (commandWord 0x20 b) = .ok (.txPush b)) ∧
  (∀ s b, held (.txPush b) s = false) ∧
  (∀ s b, s.txOvf = true → exec (.txPush b) s = .next s) ∧
  (∀ s b, s.txOvf = false → s.txb.length = 65535 → exec (.txPush b) s = .next { s with txOvf := true }) ∧
  (∀ s b, s.txOvf = false → s.txb.length ≠ 65535 → exec (.txPush b) s = .next { s with txb := s.txb ++ [b] }) ∧
  (∀ s m, ∃ t, exec (.clrStatus m) s = .next t ∧ t.txOvf = s.txOvf) ∧
  (∀ s, s.txb = [] → s.txOvf = false → ∃ t, exec (.txPush 0xAA) s = .next t ∧ t.txb = [0xAA] ∧ regValue 0x05 t = 1)

/-- R122: TX_COMMIT of an overflowed payload is rejected at once, whatever room TXQ has; of a payload of at most 65535 bytes it
holds while TXQ lacks room and otherwise queues the whole frame; into an empty TXQ it never holds; TX_POPs release a held one; the
empty-payload frame and the example. It neither reads nor writes CRC_STATE. -/
def Obligations.TxCommitQueuesFrameOrRejects : Prop :=
  decode 0x2100 = .ok .txCommit ∧
  (∀ s, s.txOvf = true → held .txCommit s = false ∧
    exec .txCommit s = .next { s with txRej := true, txb := [], txOvf := false }) ∧
  (∀ s, s.txOvf = false → s.txb.length ≤ 65535 → s.config.txqCap - s.txq.length < 6 + s.txb.length →
    held .txCommit s = true ∧ exec .txCommit s = .next s) ∧
  (∀ s, s.txOvf = false → s.txb.length ≤ 65535 → 6 + s.txb.length ≤ s.config.txqCap - s.txq.length →
    held .txCommit s = false ∧ exec .txCommit s = .next { s with txq := s.txq ++ frameOf s.txb, txb := [] }) ∧
  (∀ s, s.config.Legal → s.txb.length ≤ 65535 → s.txq = [] → held .txCommit s = false) ∧
  (∀ s ts, s.config.Legal → s.txb.length ≤ 65535 → held .txCommit s = true →
    s.turns = List.replicate s.txq.length .txPop ++ ts →
    ∃ t, run s.txq.length s = .next t ∧ t.txb = s.txb ∧ held .txCommit t = false) ∧
  (∀ P : List Byte, P.length ≤ 65535 → (frameOf P).length ≤ 65541) ∧
  frameOf [] = [0xAA, 0xAA, 0x00, 0x00, 0x4F, 0xFE] ∧
  frameOf [0xAA, 0xBB, 0xC8] = [0xAA, 0xAA, 0x00, 0x03, 0xAA, 0xBB, 0xC8, 0xFD, 0x88] ∧
  (∀ s c, exec .txCommit { s with crcState := c } = mapNext (fun t => { t with crcState := c }) (exec .txCommit s))

/-- The model's choice for `encode` where R120 calls it not defined (log 7): TX_COMMIT stops with the fault named for it. No
state that meets the invariants is such a state. -/
def Obligations.TxCommitStopsWhereEncodeNotDefined : Prop :=
  (∀ s, s.txOvf = false → 65535 < s.txb.length → exec .txCommit s = .fault .encodeNotDefined) ∧
  (∀ s, Invariants s → ¬(s.txOvf = false ∧ 65535 < s.txb.length))

/-- R123: TX_ABORT empties TXB and clears TX_OVF and changes nothing else, TX_REJ and TXQ neither; it is idempotent. -/
def Obligations.TxAbortDiscardsPayload : Prop :=
  (∀ s, exec .txAbort s = .next { s with txb := [], txOvf := false } ∧
    exec .txAbort { s with txb := [], txOvf := false } = .next { s with txb := [], txOvf := false }) ∧
  decode 0x2200 = .ok .txAbort ∧
  (∀ s, s.txb = [0x01, 0x02] → ∃ t, exec .txAbort s = .next t ∧ t.txb = [] ∧ regValue 0x05 t = 0)

/-- R193: CLR_STATUS m clears ILL when bit 0 of m is 1 and TX_REJ when bit 2 is 1, and nothing else; its legal words; a word with
a reserved mask bit set is illegal, sets ILL and clears nothing. What `exec` does with a mask that no command word carries is the
model's (log 15). -/
def Obligations.ClrStatusClearsStickyFlags : Prop :=
  (∀ s m, exec (.clrStatus m) s =
    .next { s with ill := s.ill && !m.getLsbD 0, txRej := s.txRej && !m.getLsbD 2 } ∧ held (.clrStatus m) s = false) ∧
  (∀ w m, decode w = .ok (.clrStatus m) ↔
    w = commandWord 0x30 m ∧ w ∈ ([0x3000, 0x3001, 0x3004, 0x3005] : List Word)) ∧
  (∀ s ws ts (m : Byte), s.turns = .command :: ts → s.cmds = commandWord 0x30 m :: ws → m &&& 0xFA ≠ 0 →
    step s = .next { s with turns := ts, cmds := ws, ill := true }) ∧
  (∀ s, s.ill = true → s.txRej = true → ∃ t, exec (.clrStatus 0x01) s = .next t ∧ t.ill = false ∧ t.txRej = true ∧
    (regValue 0x00 t).getLsbD 2 = true)

/-- R194: an illegal word sets ILL and changes nothing else of the block, in every state, so whether or not EVQ or TXQ is full; a
second one leaves ILL = 1; the number of illegal words; the example 0x4000. -/
def Obligations.IllegalWordSetsIllOnly : Prop :=
  (∀ s w ws ts e, s.turns = .command :: ts → s.cmds = w :: ws → decode w = .error e →
    ∃ t, step s = .next t ∧ t.ill = true ∧ SameBlock { s with ill := true } t ∧
      illegalWord (illegalWord s) = illegalWord s) ∧
  (∃ e, decode 0x0101 = .error e) ∧ (∃ e, decode 0x3003 = .error e) ∧ (∃ e, decode 0x4000 = .error e) ∧
  illegalWords = 64759 ∧
  (∀ s, s.evq = [] → s.config.Legal → s.txq = [] → rxCand s = false → s.txOvf = false → s.txRej = false →
    statusWord (illegalWord s) = 0x00000001)

/-! ## The checksum -/

/-- R107, R109: the check value of CRC-16/USB; the checksum of the empty sequence is 0, and CRC_RESULT_R reads 0 right after
CRC_INIT or RESET. -/
def Obligations.CrcCheckValues : Prop :=
  crc16usb [0x31, 0x32, 0x33, 0x34, 0x35, 0x36, 0x37, 0x38, 0x39] = 0xB4C8 ∧
  crc16usb [] = 0x0000 ∧ (∀ s, ∃ t, exec .crcInit s = .next t ∧ regValue 0x02 t = 0x0000) ∧
  (∀ s r ts, s.turns = .reset r :: ts → ∃ t, step s = .next t ∧ regValue 0x02 t = 0x0000)

/-- R103: the reflected and the unreflected definition of the checksum are equal on every input. -/
def Obligations.ReflectedEqualsUnreflected : Prop := ∀ D : List Byte, crc16usb D = crc16usbUnreflected D

/-- R106: CRC_RESULT_R reads CRC_STATE ^ 0xFFFF. In every run, whatever other transactions come between, it is the checksum of
the bytes given since the last CRC_INIT or RESET; and the sequence CRC_OF, with or without its CRC_INIT after reset. -/
def Obligations.CrcResultIsChecksumOfUpdates : Prop :=
  (∀ s, regValue 0x02 s = (s.crcState ^^^ 0xFFFF).setWidth 32) ∧
  (∀ s t D, s.crcState = crcRun 0xFFFF D → step s = .next t →
    t.crcState = crcRun 0xFFFF (crcBytesAfter D (performed s)) ∧
    regValue 0x02 t = (crc16usb (crcBytesAfter D (performed s))).setWidth 32) ∧
  (∀ s D, run (1 + D.length) (offering (Pseudo.words (.crcOf D)) s) = .next { s with crcState := crcRun 0xFFFF D }) ∧
  (∀ s D, s.crcState = 0xFFFF → run D.length (offering (D.map fun b => encode (.crcUpdate b)) s) =
    .next { s with crcState := crcRun 0xFFFF D })

/-- R108: CRC_INIT and CRC_UPDATE change only CRC_STATE, and no other command reads or writes CRC_STATE. -/
def Obligations.CrcuIsIndependent : Prop :=
  (∀ s, ∃ c, exec .crcInit s = .next { s with crcState := c }) ∧
  (∀ s b, ∃ c, exec (.crcUpdate b) s = .next { s with crcState := c }) ∧
  (∀ i c s, i ≠ .crcInit → (∀ b, i ≠ .crcUpdate b) →
    exec i { s with crcState := c } = mapNext (fun t => { t with crcState := c }) (exec i s))

/-! ## The encoder -/

/-- R80, R81: the fields of a frame at their offsets, the checksum over [2 .. 4+L), and the size 6 + L. -/
def Obligations.FrameHasWireFormat : Prop :=
  ∀ P : List Byte, P.length ≤ 65535 →
    (frameOf P).length = 6 + P.length ∧ (frameOf P).take 2 = [0xAA, 0xAA] ∧
    ((byteAt (frameOf P) 2).toNat * 256 + (byteAt (frameOf P) 3).toNat = P.length) ∧
    slice (frameOf P) 4 (4 + P.length) = P ∧
    (frameOf P).drop (4 + P.length) =
      [(crc16usb (slice (frameOf P) 2 (4 + P.length))).extractLsb' 8 8,
       (crc16usb (slice (frameOf P) 2 (4 + P.length))).extractLsb' 0 8]

/-- R94, R121, R122, R125: TX_SEND into an empty payload buffer. At most 65535 bytes queue exactly the frame of those bytes when
TXQ has the room; more queue nothing, whatever room TXQ has, and leave TX_REJ set. -/
def Obligations.SendQueuesFrameOrIsRefused : Prop :=
  (∀ s P, P.length ≤ 65535 → s.txb = [] → s.txOvf = false → 6 + P.length ≤ s.config.txqCap - s.txq.length →
    run (P.length + 1) (offering (Pseudo.words (.txSend P)) s) = .next { s with txq := s.txq ++ frameOf P }) ∧
  (∀ s P, 65535 < P.length → s.txb = [] → s.txOvf = false →
    run (P.length + 1) (offering (Pseudo.words (.txSend P)) s) = .next { s with txRej := true })

/-- R125: fail closed, in every run and under every interleaving. P is what was pushed since the last TX_COMMIT, TX_ABORT or
reset; a commit that is performed places `encode(P)` when P has at most 65535 bytes and nothing otherwise; no other
transaction places bytes in TXQ. -/
def Obligations.EncoderFailsClosed : Prop :=
  (∀ c, PayloadTracked [] (State.resetWith c)) ∧
  (∀ s t P, PayloadTracked P s → step s = .next t →
    PayloadTracked (payloadAfter P (performed s)) t ∧
    (performed s = some (.exec .txCommit) →
      P.length ≤ 65535 ∧ t.txq = s.txq ++ frameOf P ∨ 65535 < P.length ∧ t.txq = s.txq ∧ t.txRej = true) ∧
    (performed s ≠ some (.exec .txCommit) → t.txq <:+ s.txq))

/-! ## The decoder -/

/-- R145: an outcome other than Incomplete is kept by appending, and Incomplete after appending was Incomplete before. -/
def Obligations.DecodeIsPrefixStable : Prop :=
  (∀ B X, tryDecode B ≠ .incomplete → tryDecode (B ++ X) = tryDecode B) ∧
  (∀ B X, tryDecode (B ++ X) = .incomplete → tryDecode B = .incomplete)

/-- R28, R142, R160, R173: the decode step, by the outcome at the head of RXB: the bytes it removes, the count, and the event it
reports, field by field. Nothing else changes: NotAligned reports no event, and Valid and Invalid count no discarded byte. -/
def Obligations.OutcomeConsumesItsBytes : Prop :=
  ∀ s, (tryDecode s.rxb = .incomplete → syncStep s = s) ∧
    (tryDecode s.rxb = .notAligned → s.rxb ≠ [] ∧
      syncStep s = { s with rxb := s.rxb.drop 1, resyncCount := satInc32 s.resyncCount }) ∧
    (∀ L P D, tryDecode s.rxb = .valid L P D →
      6 + L.toNat ≤ s.rxb.length ∧ L = declaredLength s.rxb ∧ P = slice s.rxb 4 (4 + L.toNat) ∧ P.length = L.toNat ∧
      D = beWord (byteAt s.rxb (4 + L.toNat)) (byteAt s.rxb (5 + L.toNat)) ∧ D = crc16usb (slice s.rxb 2 (4 + L.toNat)) ∧
      syncStep s = { s with
        rxb := s.rxb.drop (6 + L.toNat)
        evq := s.evq ++ [{ kind := .valid, length := L, payload := P, declaredCrc := D, computedCrc := D }] }) ∧
    (∀ L P D K, tryDecode s.rxb = .invalid L P D K →
      6 + L.toNat ≤ s.rxb.length ∧ L = declaredLength s.rxb ∧ P = slice s.rxb 4 (4 + L.toNat) ∧ P.length = L.toNat ∧
      D = beWord (byteAt s.rxb (4 + L.toNat)) (byteAt s.rxb (5 + L.toNat)) ∧ K = crc16usb (slice s.rxb 2 (4 + L.toNat)) ∧
      D ≠ K ∧
      syncStep s = { s with
        rxb := s.rxb.drop (6 + L.toNat)
        evq := s.evq ++ [{ kind := .invalid, length := L, payload := P, declaredCrc := D, computedCrc := K }] })

/-- R141, R143, R144: the outcome of `try_decode`, whole, on every byte sequence. A candidate whose bytes are all there is valid
exactly when its trailing 2 bytes equal the checksum of [2 .. 4+L), whatever the payload holds, and the outcome carries the length,
the payload and the checksums at their offsets. So a frame decodes to its own payload whatever its bytes are and whatever follows
it; the payload AA AA is the example. -/
def Obligations.ValidExactlyWhenChecksumMatches : Prop :=
  (∀ B : List Byte, B.length < 6 → tryDecode B = .incomplete) ∧
  (∀ B : List Byte, 6 ≤ B.length → (byteAt B 0 ≠ 0xAA ∨ byteAt B 1 ≠ 0xAA) → tryDecode B = .notAligned) ∧
  (∀ B : List Byte, 6 ≤ B.length → byteAt B 0 = 0xAA → byteAt B 1 = 0xAA →
    B.length < 6 + (beWord (byteAt B 2) (byteAt B 3)).toNat → tryDecode B = .incomplete) ∧
  (∀ (B : List Byte) (L D K : Word) (P : List Byte), byteAt B 0 = 0xAA → byteAt B 1 = 0xAA →
    L = beWord (byteAt B 2) (byteAt B 3) → 6 + L.toNat ≤ B.length → P = slice B 4 (4 + L.toNat) →
    D = beWord (byteAt B (4 + L.toNat)) (byteAt B (5 + L.toNat)) → K = crc16usb (slice B 2 (4 + L.toNat)) →
    (D = K → tryDecode B = .valid L P D) ∧ (D ≠ K → tryDecode B = .invalid L P D K) ∧
    ((∃ L' P' D', tryDecode B = .valid L' P' D') ↔ D = K)) ∧
  (∀ P X : List Byte, P.length ≤ 65535 → tryDecode (frameOf P ++ X) =
    .valid (BitVec.ofNat 16 P.length) P (crc16usb (lengthField P ++ P))) ∧
  frameOf [0xAA, 0xAA] = [0xAA, 0xAA, 0x00, 0x02, 0xAA, 0xAA, 0xC4, 0xA0] ∧
  tryDecode (frameOf [0xAA, 0xAA]) = .valid 2 [0xAA, 0xAA] 0xC4A0

/-- R147: every single-bit error in the payload or the checksum field of a frame alone in the buffer gives Invalid, with the
frame's own length; a single-bit flip of the length field can give Valid (90_conflicts.md C3). -/
def Obligations.SingleBitErrorGivesInvalid : Prop :=
  (∀ (P : List Byte) (k j : Nat), P.length ≤ 65535 → 4 ≤ k → k < 6 + P.length → j < 8 →
    ∃ P' D K, tryDecode (flipBit (frameOf P) k j) = .invalid (BitVec.ofNat 16 P.length) P' D K) ∧
  (∃ P L P' D, tryDecode (flipBit (frameOf P) 3 1) = .valid L P' D)

/-- R148: a single-bit flip in either marker byte always gives NotAligned. -/
def Obligations.MarkerFlipGivesNotAligned : Prop :=
  ∀ (B : List Byte) (k j : Nat), 6 ≤ B.length → markerAtHead B = true → k < 2 → j < 8 →
    tryDecode (flipBit B k j) = .notAligned

/-! ## The synchronizer -/

/-- R161: the loop runs while a decode step is possible and ends exactly when RXB is quiescent; every step removes at least one
byte. -/
def Obligations.LoopEndsQuiescent : Prop :=
  (∀ s, quiescent (syncRun s).rxb = true) ∧
  (∀ s, quiescent s.rxb = true → syncRun s = s) ∧
  (∀ s, quiescent s.rxb = false → syncRun s = syncRun (syncStep s) ∧ (syncStep s).rxb.length < s.rxb.length) ∧
  (∀ B : List Byte, B.length < 6 → quiescent B = true)

/-- R166: RESYNC_COUNT counts up to 0xFFFFFFFF and stays there; it never wraps to 0. A NotAligned step sets it to `sat_inc32` of
itself, and no step of the machine but RESET lowers it; at 0xFFFFFFFF it stays. -/
def Obligations.ResyncCounterSaturates : Prop :=
  (∀ c : RegVal, c.toNat < 0xFFFFFFFF → (satInc32 c).toNat = c.toNat + 1) ∧ satInc32 0xFFFFFFFF = 0xFFFFFFFF ∧
  (∀ c : RegVal, satInc32 c ≠ 0) ∧
  (∀ s, tryDecode s.rxb = .notAligned → (syncStep s).resyncCount = satInc32 s.resyncCount) ∧
  (∀ s t, step s = .next t → (∀ r, performed s ≠ some (.reset r)) →
    s.resyncCount.toNat ≤ t.resyncCount.toNat ∧ (s.resyncCount = 0xFFFFFFFF → t.resyncCount = 0xFFFFFFFF) ∧
    (0 < s.resyncCount.toNat → t.resyncCount ≠ 0))

/-- R167: on a quiescent RXB a push performs at most one decode step and emits at most one event, by the three cases of the rule,
and RXB is quiescent afterwards. -/
def Obligations.PushTakesAtMostOneStep : Prop :=
  ∀ s b, quiescent s.rxb = true → s.evq.length ≠ s.config.evqCap →
    ∃ t, exec (.rxPush b) s = .next t ∧
      (t = { s with rxb := s.rxb ++ [b] } ∨ t = syncStep { s with rxb := s.rxb ++ [b] }) ∧
      quiescent t.rxb = true ∧ t.evq.length ≤ s.evq.length + 1 ∧
      (s.rxb.length = 5 → markerAtHead (s.rxb ++ [b]) = false → t.rxb.length = 5 ∧ t.evq = s.evq) ∧
      (s.rxb.length = 5 → markerAtHead (s.rxb ++ [b]) = true → (declaredLength (s.rxb ++ [b])).toNat = 0 →
        t.rxb = [] ∧ t.evq.length = s.evq.length + 1) ∧
      (s.rxb.length = 5 → markerAtHead (s.rxb ++ [b]) = true → 0 < (declaredLength (s.rxb ++ [b])).toNat →
        t = { s with rxb := s.rxb ++ [b] }) ∧
      (s.rxb.length ≤ 4 → t = { s with rxb := s.rxb ++ [b] }) ∧
      (6 ≤ s.rxb.length → markerAtHead s.rxb = true ∧ s.rxb.length < 6 + (declaredLength s.rxb).toNat) ∧
      (6 ≤ s.rxb.length → s.rxb.length + 1 < 6 + (declaredLength s.rxb).toNat → t = { s with rxb := s.rxb ++ [b] }) ∧
      (6 ≤ s.rxb.length → s.rxb.length + 1 = 6 + (declaredLength s.rxb).toNat →
        t.rxb = [] ∧ t.evq.length = s.evq.length + 1)

/-- R168: chunking does not matter. From any state between transactions, the document's process on chunks and one RX_PUSH per byte
leave the same state: the same events in the same order, the same count of discarded bytes, the same RXB. It speaks of pushes that
EVQ never stops; a held push is RxPushHoldsWhileEventQueueFull's. -/
def Obligations.ChunkingDoesNotMatter : Prop :=
  ∀ s t chunks, quiescent s.rxb = true → pushAll chunks.flatten s = some t → t = feedChunks chunks s

/-- R169: a quiescent RXB has fewer than 6 bytes, or holds a marker and fewer than 6 + L bytes; so at most 65540, and a push never
finds RXB full. -/
def Obligations.QuiescentBufferIsBounded : Prop :=
  ∀ B : List Byte, quiescent B = true →
    (B.length < 6 ∨ markerAtHead B = true ∧ B.length < 6 + (declaredLength B).toNat) ∧ B.length ≤ 65540 ∧
      ∀ b : Byte, (B ++ [b]).length ≤ Config.maxFrame

/-- R126: the round trip. The bytes of `encode(P)` pushed into an empty RXB place exactly one event, VALID and carrying P, and
leave RXB empty; if EVQ is full, the last push holds until the consumer makes room, and the event is placed then. How the held
turn passes is the model's (logs 2, 3, 4), as is the record of what the consumer took (log 6). -/
def Obligations.EncodedFrameRoundTrips : Prop :=
  (∀ s P, P.length ≤ 65535 → s.rxb = [] → s.evq.length ≠ s.config.evqCap →
    pushAll (frameOf P) s = some { s with evq := s.evq ++
      [{ kind := .valid, length := BitVec.ofNat 16 P.length, payload := P,
         declaredCrc := crc16usb (lengthField P ++ P), computedCrc := crc16usb (lengthField P ++ P) }] }) ∧
  (∀ s P b ws ts e rest, P.length ≤ 65535 → s.rxb ++ [b] = frameOf P → s.turns = [.command, .evtPop, .command] ++ ts →
    s.cmds = encode (.rxPush b) :: ws → s.evq = e :: rest → s.evq.length = s.config.evqCap →
    run 1 s = .next { s with turns := [.evtPop, .command] ++ ts } ∧
    run 3 s = .next { s with
      turns := ts, cmds := ws, rxb := [], evq := rest ++ [frameEvent P], taken := s.taken ++ [e] })

/-- R172: partial delivery. No event before the last byte of `encode(P)`, one VALID event at it, for every split point. -/
def Obligations.PartialDeliveryEmitsAtLastByte : Prop :=
  ∀ s P k, P.length ≤ 65535 → s.rxb = [] → s.evq.length ≠ s.config.evqCap → k < 6 + P.length →
    pushAll ((frameOf P).take k) s = some { s with rxb := (frameOf P).take k } ∧
    pushAll ((frameOf P).drop k) { s with rxb := (frameOf P).take k } =
      some { s with evq := s.evq ++ [frameEvent P] }

/-- R171: two frames pushed into an empty RXB give two VALID events in order and leave RXB empty. -/
def Obligations.TwoFramesGiveTwoEvents : Prop :=
  ∀ s t P1 P2, P1.length ≤ 65535 → P2.length ≤ 65535 → s.rxb = [] → pushAll (frameOf P1 ++ frameOf P2) s = some t →
    t = { s with evq := s.evq ++ [frameEvent P1, frameEvent P2] }

/-- R170: resynchronisation after noise. With noise n before `encode(P)`, the synchronizer emits exactly the event of P and counts
exactly the bytes of n if and only if no offset in n starts two adjacent marker bytes of the stream, that is, n contains no two
adjacent 0xAA and does not end in 0xAA; otherwise the first such offset is taken as a frame candidate. The count must not
saturate (R166). -/
def Obligations.ResyncAfterNoise : Prop :=
  (∀ s t n P, P.length ≤ 65535 → s.rxb = [] → s.resyncCount.toNat + n.length < 2 ^ 32 →
    pushAll (n ++ frameOf P) s = some t →
    ((t.evq = s.evq ++ [frameEvent P] ∧ t.resyncCount.toNat = s.resyncCount.toNat + n.length) ↔
      ∀ i, i < n.length → ¬markerAt (n ++ frameOf P) i)) ∧
  (∀ n P, (∀ i, i < n.length → ¬markerAt (n ++ frameOf P) i) ↔
    (∀ i, i + 1 < n.length → ¬markerAt n i) ∧ n.getLast? ≠ some Config.marker) ∧
  (∀ s n P i, s.rxb = [] → s.resyncCount.toNat + n.length < 2 ^ 32 → s.evq.length ≠ s.config.evqCap → i < n.length →
    markerAt (n ++ frameOf P) i → (∀ j, j < i → ¬markerAt (n ++ frameOf P) j) →
    ∃ t, pushAll ((n ++ frameOf P).take (i + 5)) s = some t ∧ t.evq = s.evq ∧
      t.resyncCount.toNat = s.resyncCount.toNat + i ∧ t.rxb = slice (n ++ frameOf P) i (i + 5) ∧
      tryDecode ((n ++ frameOf P).drop i) ≠ .notAligned) ∧
  (∀ s, s.rxb = [] → s.evq.length ≠ s.config.evqCap →
    pushAll ([0xAA] ++ frameOf [0xAA, 0xBB, 0xC8]) s = some { s with rxb := [0xAA] ++ frameOf [0xAA, 0xBB, 0xC8] } ∧
    (declaredLength ([0xAA] ++ frameOf [0xAA, 0xBB, 0xC8])).toNat = 43520)

/-- The host's RX_FEED, through decoder, command port and step, is the pushes of its bytes (logs 2, 3): the statements about
pushes are statements about runs. -/
def Obligations.FeedRunsAsPushes : Prop :=
  ∀ bs s t, pushAll bs s = some t → run bs.length (offering (Pseudo.words (.rxFeed bs)) s) = .next t

/-! ## Status and registers -/

/-- R32: STATUS bit by bit, its reset value, and for each stored flag what sets it and what clears it, in every step. -/
def Obligations.StatusBitsSetAndCleared : Prop :=
  (∀ s, (regValue 0x00 s).getLsbD 0 = s.ill ∧ (regValue 0x00 s).getLsbD 1 = s.txOvf ∧ (regValue 0x00 s).getLsbD 2 = s.txRej ∧
    ((regValue 0x00 s).getLsbD 3 = true ↔ s.evq.length = s.config.evqCap) ∧
    ((regValue 0x00 s).getLsbD 4 = true ↔ 0 < s.evq.length) ∧
    ((regValue 0x00 s).getLsbD 5 = true ↔ ∃ rest, s.rxb = 0xAA :: 0xAA :: rest) ∧
    ((regValue 0x00 s).getLsbD 6 = true ↔ 0 < s.txq.length) ∧
    ∀ n, 7 ≤ n → (regValue 0x00 s).getLsbD n = false) ∧
  (∀ c : Config, c.Legal → regValue 0x00 (State.resetWith c) = 0x00000000) ∧
  (∀ s t, step s = .next t →
    (t.ill = true ↔ (∃ w, performed s = some (.illegal w)) ∨
      s.ill = true ∧ (∀ m, performed s = some (.exec (.clrStatus m)) → m.getLsbD 0 = false) ∧
        ∀ r, performed s ≠ some (.reset r)) ∧
    (t.txOvf = true ↔ (∃ b, performed s = some (.exec (.txPush b)) ∧ s.txb.length = 65535) ∧ s.txOvf = false ∨
      s.txOvf = true ∧ performed s ≠ some (.exec .txCommit) ∧ performed s ≠ some (.exec .txAbort) ∧
        ∀ r, performed s ≠ some (.reset r)) ∧
    (t.txRej = true ↔ performed s = some (.exec .txCommit) ∧ s.txOvf = true ∨
      s.txRej = true ∧ (∀ m, performed s = some (.exec (.clrStatus m)) → m.getLsbD 2 = false) ∧
        ∀ r, performed s ≠ some (.reset r)))

/-- R33: the register map in every state that meets the invariants; the bits the map does not name read 0 in every state. -/
def Obligations.RegisterMapReads : Prop :=
  (∀ s, Invariants s → regValue 0x00 s = statusWord s ∧ regValue 0x01 s = s.crcState.setWidth 32 ∧
    regValue 0x02 s = (s.crcState ^^^ 0xFFFF).setWidth 32 ∧ (regValue 0x03 s).toNat = s.rxb.length ∧
    regValue 0x04 s = s.resyncCount ∧ (regValue 0x05 s).toNat = s.txb.length ∧ (regValue 0x06 s).toNat = s.evq.length ∧
    (regValue 0x07 s).toNat = s.txq.length ∧ (regValue 0x08 s).toNat = s.config.evqCap ∧
    (regValue 0x09 s).toNat = s.config.txqCap) ∧
  (∀ s (idx : Byte), 0x0A ≤ idx.toNat → regValue idx s = 0x00000000) ∧
  (∀ s n, (7 ≤ n → (regValue 0x00 s).getLsbD n = false) ∧ (16 ≤ n → (regValue 0x01 s).getLsbD n = false) ∧
    (16 ≤ n → (regValue 0x02 s).getLsbD n = false) ∧ (17 ≤ n → (regValue 0x03 s).getLsbD n = false) ∧
    (16 ≤ n → (regValue 0x05 s).getLsbD n = false)) ∧
  (∀ c : Config, c.Legal → regValue 0x00 (State.resetWith c) = 0x00000000 ∧ regValue 0x01 (State.resetWith c) = 0x0000FFFF ∧
    (∀ idx ∈ ([0x02, 0x03, 0x04, 0x05, 0x06, 0x07] : List Byte), regValue idx (State.resetWith c) = 0x00000000) ∧
    (regValue 0x08 (State.resetWith c)).toNat = c.evqCap ∧ (regValue 0x09 (State.resetWith c)).toNat = c.txqCap) ∧
  (∀ s idx, SameBlock s (regRead idx s))

/-- R23, R24, R26, R27, R29, R30, R243: which transactions can change each element of the block, in every step but RESET; no
step at all changes the parameters. -/
def Obligations.EachElementHasItsWriters : Prop :=
  ∀ s t, step s = .next t → t.config = s.config ∧ ((∀ r, performed s ≠ some (.reset r)) →
    (t.crcState ≠ s.crcState → performed s = some (.exec .crcInit) ∨ ∃ b, performed s = some (.exec (.crcUpdate b))) ∧
    (t.rxb ≠ s.rxb → performed s = some (.exec .rxClear) ∨ ∃ b, performed s = some (.exec (.rxPush b))) ∧
    (t.resyncCount ≠ s.resyncCount → ∃ b, performed s = some (.exec (.rxPush b))) ∧
    (t.evq ≠ s.evq → performed s = some .evtPop ∨ ∃ b, performed s = some (.exec (.rxPush b))) ∧
    (t.txb ≠ s.txb → performed s = some (.exec .txCommit) ∨ performed s = some (.exec .txAbort) ∨
      ∃ b, performed s = some (.exec (.txPush b))) ∧
    (t.txq ≠ s.txq → performed s = some (.exec .txCommit) ∨ performed s = some .txPop))

/-- R68: NOP, CRC_INIT, RX_CLEAR, TX_ABORT, CLR_STATUS and an illegal word are idempotent; CRC_UPDATE, RX_PUSH, TX_PUSH and
TX_COMMIT are not: two pushes append two bytes, and a second TX_COMMIT with TXB empty sends an empty-payload frame. -/
def Obligations.IdempotentCommands : Prop :=
  (∀ i s, i = .nop ∨ i = .crcInit ∨ i = .rxClear ∨ i = .txAbort ∨ (∃ m, i = .clrStatus m) →
    ∃ t, exec i s = .next t ∧ exec i t = .next t) ∧
  (∀ s, illegalWord (illegalWord s) = illegalWord s) ∧
  (∃ s t u b, exec (.crcUpdate b) s = .next t ∧ exec (.crcUpdate b) t = .next u ∧ t.crcState ≠ u.crcState) ∧
  (∀ s b, s.rxb.length ≤ 3 → s.evq.length ≠ s.config.evqCap →
    ∃ t u, exec (.rxPush b) s = .next t ∧ exec (.rxPush b) t = .next u ∧ u.rxb = s.rxb ++ [b, b]) ∧
  (∀ s b, s.txOvf = false → s.txb.length < 65534 → ∃ t u, exec (.txPush b) s = .next t ∧ exec (.txPush b) t = .next u ∧
    u.txb = s.txb ++ [b, b]) ∧
  (∀ s, s.txOvf = false → s.txb.length ≤ 65535 → 12 + s.txb.length ≤ s.config.txqCap - s.txq.length →
    ∃ t u, exec .txCommit s = .next t ∧ exec .txCommit t = .next u ∧ u.txq = s.txq ++ frameOf s.txb ++ frameOf [])

/-! ## Invariants and whole-machine claims -/

/-- R38, R241: the invariants hold right after reset, for all legal parameters and for the parameters of log 1. -/
def Obligations.ResetMeetsInvariants : Prop :=
  (∀ c : Config, c.Legal → Invariants (State.resetWith c)) ∧ Invariants State.reset

/-- R38: the invariants hold between any two transactions: every step keeps them. -/
def Obligations.StepKeepsInvariants : Prop := ∀ s t, Invariants s → step s = .next t → Invariants t

/-- R38, in every run: from reset, with any legal parameters, under any words of the host and any interleaving of the agents,
every number of steps answers a next state, and the invariants hold in it. That every step answers a next state rests on the
model's lists of words and turns (logs 2, 3) and on its one fault (log 7). -/
def Obligations.NoRunStops : Prop :=
  ∀ (c : Config) (ws : List Word) (ts : List Turn) (n : Nat), c.Legal →
    ∃ t, run n { State.resetWith c with cmds := ws, turns := ts } = .next t ∧ Invariants t

/-- R71 items 2 and 3 (with log 6): in every step but RESET, what the consumer has taken and what still waits in EVQ keep their
order, and new events join behind them, at most one a step and only by RX_PUSH. -/
def Obligations.EventsKeepTheirOrder : Prop :=
  ∀ s t, quiescent s.rxb = true → step s = .next t → (∀ r, performed s ≠ some (.reset r)) →
    ∃ new, t.taken ++ t.evq = s.taken ++ s.evq ++ new ∧ new.length ≤ 1 ∧
      (new ≠ [] → ∃ b, performed s = some (.exec (.rxPush b)))

/-- R71 item 4 (with log 6): in every step but RESET, the bytes the sink has and those that still wait in TXQ keep their order, and
only TX_COMMIT adds bytes: one whole frame, of the payload it found. -/
def Obligations.SentBytesKeepTheirOrder : Prop :=
  ∀ s t, step s = .next t → (∀ r, performed s ≠ some (.reset r)) →
    ∃ new, t.sent ++ t.txq = s.sent ++ s.txq ++ new ∧
      (new ≠ [] → performed s = some (.exec .txCommit) ∧ new = frameOf s.txb)

/-- R246: backpressure can deadlock the command port. As long as no EVT_POP and no RESET comes, a held RX_PUSH stays the
outstanding word, and no later word is performed, whatever else the agents do; likewise a held TX_COMMIT without TX_POP. -/
def Obligations.HeldCommandBlocksPort : Prop :=
  (∀ n s w ws b, s.cmds = w :: ws → decode w = .ok (.rxPush b) → held (.rxPush b) s = true →
    .evtPop ∉ s.turns → (∀ r, .reset r ∉ s.turns) →
    ∃ t, run n s = .next t ∧ t.cmds = s.cmds ∧ SameBlock { s with txq := t.txq } t ∧ held (.rxPush b) t = true) ∧
  (∀ n s w ws, s.cmds = w :: ws → decode w = .ok .txCommit → held .txCommit s = true →
    .txPop ∉ s.turns → (∀ r, .reset r ∉ s.turns) →
    ∃ t, run n s = .next t ∧ t.cmds = s.cmds ∧ SameBlock { s with evq := t.evq } t ∧ held .txCommit t = true)

/-- R247: TX_COMMIT holds exactly while TXQ has less than 6 + len(TXB) free bytes; k TX_POPs that make the room release it; into an
empty TXQ no commit holds. The lists of words and turns
(logs 2, 3) and the record of what the sink took (log 6) are the model's. -/
def Obligations.PopsReleaseHeldCommit : Prop :=
  (∀ s, s.txOvf = false → s.txb.length ≤ 65535 →
    (held .txCommit s = true ↔ s.config.txqCap - s.txq.length < 6 + s.txb.length)) ∧
  (∀ s ws ts k, s.txOvf = false → s.txb.length ≤ 65535 → s.cmds = encode .txCommit :: ws → k ≤ s.txq.length →
    6 + s.txb.length ≤ s.config.txqCap - (s.txq.length - k) →
    s.turns = List.replicate k .txPop ++ [.command] ++ ts →
    run (k + 1) s = .next { s with
      turns := ts, cmds := ws, sent := s.sent ++ s.txq.take k, txq := s.txq.drop k ++ frameOf s.txb, txb := [] }) ∧
  (∀ s, s.config.Legal → s.txb.length ≤ 65535 → s.txq = [] → held .txCommit s = false)

/-- R244: the clean-up order for a host that does not know the state brings the block to a known state, with the parameters, TXQ and
RESYNC_COUNT as they were. The lists of words and turns (logs 2, 3) and the record of what the consumer took (log 6) are the
model's. -/
def Obligations.CleanUpReachesKnownState : Prop :=
  ∀ s : State, run (4 + s.evq.length)
      { s with
        cmds := [encode .rxClear, encode .txAbort, encode (.clrStatus 0x05), encode .crcInit] ++ s.cmds
        turns := List.replicate 4 .command ++ List.replicate s.evq.length .evtPop ++ s.turns } =
    .next { s with
      rxb := [], txb := [], txOvf := false, ill := false, txRej := false, crcState := 0xFFFF, evq := []
      taken := s.taken ++ s.evq }
end

