-- ==== Sys2Proof/Laws/Crc.lean ====
section
/-! SUPPORT. The CRC register: runs join end to end, and one shift is linear over exclusive or and loses nothing. -/

namespace Sys2Proof.Machine

@[simp] theorem crcRun_nil (s : Word) : crcRun s [] = s := rfl

@[simp] theorem crcRun_cons (s : Word) (b : Byte) (D : List Byte) : crcRun s (b :: D) = crcRun (crcStep s b) D := rfl

theorem crcRun_append (s : Word) (A D : List Byte) : crcRun s (A ++ D) = crcRun (crcRun s A) D :=
  List.foldl_append

theorem crc16usb_eq (D : List Byte) : crc16usb D = crcRun 0xFFFF D ^^^ 0xFFFF := rfl

/-- The shift of one bit is linear over exclusive or. -/
theorem crcShift_xor (a b : Word) : crcShift (a ^^^ b) = crcShift a ^^^ crcShift b := by
  have hs : (a ^^^ b) >>> 1 = a >>> 1 ^^^ b >>> 1 := BitVec.ushiftRight_xor_distrib a b 1
  have hx : (a ^^^ b).getLsbD 0 = (a.getLsbD 0 ^^ b.getLsbD 0) := BitVec.getLsbD_xor
  unfold crcShift
  rw [hs, hx]
  cases a.getLsbD 0 <;> cases b.getLsbD 0 <;>
    simp only [Bool.xor_false, Bool.xor_true, Bool.not_true, Bool.not_false, if_true, Bool.false_eq_true, if_false] <;>
    ext i hi <;> simp only [BitVec.getElem_xor] <;>
    cases (a >>> 1)[i] <;> cases (b >>> 1)[i] <;> cases Config.crcPolyReflected[i] <;> rfl

/-- The shift of one bit loses nothing: only 0 goes to 0. -/
theorem crcShift_eq_zero {a : Word} (h : crcShift a = 0) : a = 0 := by
  have htop : (a >>> 1).getLsbD 15 = false := by
    rw [BitVec.getLsbD_ushiftRight]
    exact BitVec.getLsbD_of_ge a _ (by omega)
  unfold crcShift at h
  cases hbit : a.getLsbD 0 with
  | true =>
    rw [hbit, if_pos rfl] at h
    have := congrArg (fun v : Word => v.getLsbD 15) h
    simp only [BitVec.getLsbD_xor, htop] at this
    exact absurd this (by decide)
  | false =>
    rw [hbit, if_neg (by decide)] at h
    apply BitVec.eq_of_getLsbD_eq
    intro i hi
    rcases Nat.eq_zero_or_pos i with rfl | hpos
    · simp only [hbit, BitVec.ofNat_eq_ofNat, BitVec.getLsbD_zero]
    · have := congrArg (fun v : Word => v.getLsbD (i - 1)) h
      simpa [BitVec.getLsbD_ushiftRight, show 1 + (i - 1) = i by omega] using this

end Sys2Proof.Machine
end

