-- ==== Sys2Proof/Laws/Decode.lean ====
section
/-! SUPPORT. The two fields of a command word (R84): a word is made of them, and they are read back from it. -/

namespace Sys2Proof

theorem commandWord_getLsbD (opc imm : Byte) (i : Nat) :
    (commandWord opc imm).getLsbD i = if i < 8 then imm.getLsbD i else opc.getLsbD (i - 8) := by
  change (opc ++ imm : BitVec (8 + 8)).getLsbD i = _
  rw [BitVec.getLsbD_append]

theorem opcField_commandWord (opc imm : Byte) : opcField (commandWord opc imm) = opc := by
  apply BitVec.eq_of_getLsbD_eq
  intro i hi
  simp [opcField, commandWord_getLsbD, hi]

theorem immField_commandWord (opc imm : Byte) : immField (commandWord opc imm) = imm := by
  apply BitVec.eq_of_getLsbD_eq
  intro i hi
  simp [immField, commandWord_getLsbD, hi]

theorem commandWord_fields (w : Word) : commandWord (opcField w) (immField w) = w := by
  apply BitVec.eq_of_getLsbD_eq
  intro i hi
  rw [commandWord_getLsbD]
  by_cases h : i < 8
  · simp [immField, h]
  · simp [opcField, h, show i - 8 < 8 by omega, show 8 + (i - 8) = i by omega]

end Sys2Proof
end

