-- ==== Sys2Proof/Laws/Operands.lean ====
section
/-! SUPPORT. Byte order and byte sequences: the big-endian fields go out and come back, and what a slice or a byte of a
joined sequence is. -/

namespace Sys2Proof.Machine

@[simp] theorem beBytes_length (v : Word) : (beBytes v).length = 2 := rfl

/-- The two wire bytes of a value are read back as the value. -/
@[simp] theorem beWord_of_beBytes (v : Word) : beWord (v.extractLsb' 8 8) (v.extractLsb' 0 8) = v := by
  apply BitVec.eq_of_getLsbD_eq
  intro i hi
  simp only [beWord, zext16, BitVec.getLsbD_or, BitVec.getLsbD_shiftLeft, BitVec.getLsbD_setWidth,
    BitVec.getLsbD_extractLsb']
  by_cases h : i < 8
  · simp [h, hi]
  · simp [h, hi, show i - 8 < 16 by omega, show i - 8 < 8 by omega, show 8 + (i - 8) = i by omega]

theorem byteAt_eq_getElem (B : List Byte) (i : Nat) (h : i < B.length) : byteAt B i = B[i] := by
  simp [byteAt, List.getD, h]

theorem byteAt_append_left (B X : List Byte) (i : Nat) (h : i < B.length) : byteAt (B ++ X) i = byteAt B i := by
  simp [byteAt, List.getD, List.getElem?_append_left h]

theorem byteAt_append_right (B X : List Byte) (i : Nat) (h : B.length ≤ i) :
    byteAt (B ++ X) i = byteAt X (i - B.length) := by
  simp [byteAt, List.getD, List.getElem?_append_right h]

theorem byteAt_drop (B : List Byte) (n i : Nat) : byteAt (B.drop n) i = byteAt B (n + i) := by
  simp [byteAt, List.getD, List.getElem?_drop]

theorem slice_length (B : List Byte) (i j : Nat) (hj : j ≤ B.length) : (slice B i j).length = j - i := by
  simp [slice]
  omega

theorem slice_append_left (B X : List Byte) (i j : Nat) (hj : j ≤ B.length) : slice (B ++ X) i j = slice B i j := by
  by_cases hi : i ≤ B.length
  · simp only [slice, List.drop_append_of_le_length hi]
    exact List.take_append_of_le_length (by simp; omega)
  · simp [slice, show j - i = 0 by omega]

/-- The middle of three joined sequences. -/
theorem slice_middle (A B C : List Byte) : slice (A ++ B ++ C) A.length (A.length + B.length) = B := by
  simp [slice]

end Sys2Proof.Machine
end

