-- ==== Sys2Proof/Laws/Decoder.lean ====
section
/-! SUPPORT. What each outcome of the single-frame decoder says about the buffer, once, so that no later proof unfolds the
decoder. -/

namespace Sys2Proof.Machine

theorem tryDecode_short {B : List Byte} (h : B.length < 6) : tryDecode B = .incomplete := by
  simp [tryDecode, Config.minFrame, h]

theorem tryDecode_notAligned {B : List Byte} (h : 6 ≤ B.length) (hm : markerAtHead B = false) :
    tryDecode B = .notAligned := by
  simp [tryDecode, Config.minFrame, hm, show ¬B.length < 6 by omega]

theorem tryDecode_waiting {B : List Byte} (hm : markerAtHead B = true)
    (hl : B.length < 6 + (declaredLength B).toNat) : tryDecode B = .incomplete := by
  simp [tryDecode, Config.minFrame, hm, hl]

theorem tryDecode_candidate {B : List Byte} (hm : markerAtHead B = true)
    (hl : 6 + (declaredLength B).toNat ≤ B.length) : tryDecode B = checkCandidate B (declaredLength B) := by
  simp [tryDecode, Config.minFrame, hm, show ¬B.length < 6 by omega,
    show ¬B.length < 6 + (declaredLength B).toNat by omega]

/-- All that the checksum validator can answer: Valid or Invalid, of the length it was checked for, with every field. -/
theorem checkCandidate_cases (B : List Byte) (L : Word) :
    (∃ P D, checkCandidate B L = .valid L P D ∧ P = slice B 4 (4 + L.toNat) ∧
      D = beWord (byteAt B (4 + L.toNat)) (byteAt B (5 + L.toNat)) ∧ D = crc16usb (slice B 2 (4 + L.toNat))) ∨
    (∃ P D K, checkCandidate B L = .invalid L P D K ∧ P = slice B 4 (4 + L.toNat) ∧
      D = beWord (byteAt B (4 + L.toNat)) (byteAt B (5 + L.toNat)) ∧ K = crc16usb (slice B 2 (4 + L.toNat)) ∧ D ≠ K) := by
  by_cases h : beWord (byteAt B (4 + L.toNat)) (byteAt B (5 + L.toNat)) = crc16usb (slice B 2 (4 + L.toNat))
  · exact .inl ⟨_, _, by simp only [checkCandidate, h, if_true], rfl, h.symm, rfl⟩
  · exact .inr ⟨_, _, _, by simp only [checkCandidate, h, if_false], rfl, rfl, rfl, h⟩

/-- The four ways the decoder can go, by what the buffer holds. -/
theorem tryDecode_cases (B : List Byte) :
    (B.length < 6 ∧ tryDecode B = .incomplete) ∨
    (6 ≤ B.length ∧ markerAtHead B = false ∧ tryDecode B = .notAligned) ∨
    (6 ≤ B.length ∧ markerAtHead B = true ∧ B.length < 6 + (declaredLength B).toNat ∧ tryDecode B = .incomplete) ∨
    (markerAtHead B = true ∧ 6 + (declaredLength B).toNat ≤ B.length ∧
      tryDecode B = checkCandidate B (declaredLength B)) := by
  by_cases h : B.length < 6
  · exact .inl ⟨h, tryDecode_short h⟩
  · have h6 : 6 ≤ B.length := by omega
    cases hm : markerAtHead B
    · exact .inr (.inl ⟨h6, rfl, tryDecode_notAligned h6 hm⟩)
    · by_cases hl : B.length < 6 + (declaredLength B).toNat
      · exact .inr (.inr (.inl ⟨h6, rfl, hl, tryDecode_waiting hm hl⟩))
      · exact .inr (.inr (.inr ⟨rfl, by omega, tryDecode_candidate hm (by omega)⟩))

theorem markerAtHead_append (B X : List Byte) (h : 2 ≤ B.length) : markerAtHead (B ++ X) = markerAtHead B := by
  simp [markerAtHead, byteAt_append_left B X 0 (by omega), byteAt_append_left B X 1 (by omega)]

theorem declaredLength_append (B X : List Byte) (h : 4 ≤ B.length) : declaredLength (B ++ X) = declaredLength B := by
  simp [declaredLength, byteAt_append_left B X 2 (by omega), byteAt_append_left B X 3 (by omega)]

theorem declaredLength_le (B : List Byte) : (declaredLength B).toNat ≤ 65535 := by
  have := (declaredLength B).isLt
  omega

end Sys2Proof.Machine
end

