-- ==== Sys2Proof/Laws/State.lean ====
section
/-! SUPPORT. One lemma per field of State for each named update, each true by rfl, so that no proof unfolds a record
update. -/

namespace Sys2Proof.Machine

/-! ### raise -/

@[simp] theorem raise_illegalCommand_config (s : State) : (raise .illegalCommand s).config = s.config := rfl
@[simp] theorem raise_illegalCommand_crcState (s : State) : (raise .illegalCommand s).crcState = s.crcState := rfl
@[simp] theorem raise_illegalCommand_rxb (s : State) : (raise .illegalCommand s).rxb = s.rxb := rfl
@[simp] theorem raise_illegalCommand_resyncCount (s : State) : (raise .illegalCommand s).resyncCount = s.resyncCount := rfl
@[simp] theorem raise_illegalCommand_evq (s : State) : (raise .illegalCommand s).evq = s.evq := rfl
@[simp] theorem raise_illegalCommand_txb (s : State) : (raise .illegalCommand s).txb = s.txb := rfl
@[simp] theorem raise_illegalCommand_txq (s : State) : (raise .illegalCommand s).txq = s.txq := rfl
@[simp] theorem raise_illegalCommand_ill (s : State) : (raise .illegalCommand s).ill = true := rfl
@[simp] theorem raise_illegalCommand_txOvf (s : State) : (raise .illegalCommand s).txOvf = s.txOvf := rfl
@[simp] theorem raise_illegalCommand_txRej (s : State) : (raise .illegalCommand s).txRej = s.txRej := rfl
@[simp] theorem raise_illegalCommand_cmds (s : State) : (raise .illegalCommand s).cmds = s.cmds := rfl
@[simp] theorem raise_illegalCommand_turns (s : State) : (raise .illegalCommand s).turns = s.turns := rfl
@[simp] theorem raise_illegalCommand_reads (s : State) : (raise .illegalCommand s).reads = s.reads := rfl
@[simp] theorem raise_illegalCommand_taken (s : State) : (raise .illegalCommand s).taken = s.taken := rfl
@[simp] theorem raise_illegalCommand_sent (s : State) : (raise .illegalCommand s).sent = s.sent := rfl

/-! ### raise -/

@[simp] theorem raise_txOverflow_config (s : State) : (raise .txOverflow s).config = s.config := rfl
@[simp] theorem raise_txOverflow_crcState (s : State) : (raise .txOverflow s).crcState = s.crcState := rfl
@[simp] theorem raise_txOverflow_rxb (s : State) : (raise .txOverflow s).rxb = s.rxb := rfl
@[simp] theorem raise_txOverflow_resyncCount (s : State) : (raise .txOverflow s).resyncCount = s.resyncCount := rfl
@[simp] theorem raise_txOverflow_evq (s : State) : (raise .txOverflow s).evq = s.evq := rfl
@[simp] theorem raise_txOverflow_txb (s : State) : (raise .txOverflow s).txb = s.txb := rfl
@[simp] theorem raise_txOverflow_txq (s : State) : (raise .txOverflow s).txq = s.txq := rfl
@[simp] theorem raise_txOverflow_ill (s : State) : (raise .txOverflow s).ill = s.ill := rfl
@[simp] theorem raise_txOverflow_txOvf (s : State) : (raise .txOverflow s).txOvf = true := rfl
@[simp] theorem raise_txOverflow_txRej (s : State) : (raise .txOverflow s).txRej = s.txRej := rfl
@[simp] theorem raise_txOverflow_cmds (s : State) : (raise .txOverflow s).cmds = s.cmds := rfl
@[simp] theorem raise_txOverflow_turns (s : State) : (raise .txOverflow s).turns = s.turns := rfl
@[simp] theorem raise_txOverflow_reads (s : State) : (raise .txOverflow s).reads = s.reads := rfl
@[simp] theorem raise_txOverflow_taken (s : State) : (raise .txOverflow s).taken = s.taken := rfl
@[simp] theorem raise_txOverflow_sent (s : State) : (raise .txOverflow s).sent = s.sent := rfl

/-! ### raise -/

@[simp] theorem raise_txReject_config (s : State) : (raise .txReject s).config = s.config := rfl
@[simp] theorem raise_txReject_crcState (s : State) : (raise .txReject s).crcState = s.crcState := rfl
@[simp] theorem raise_txReject_rxb (s : State) : (raise .txReject s).rxb = s.rxb := rfl
@[simp] theorem raise_txReject_resyncCount (s : State) : (raise .txReject s).resyncCount = s.resyncCount := rfl
@[simp] theorem raise_txReject_evq (s : State) : (raise .txReject s).evq = s.evq := rfl
@[simp] theorem raise_txReject_txb (s : State) : (raise .txReject s).txb = s.txb := rfl
@[simp] theorem raise_txReject_txq (s : State) : (raise .txReject s).txq = s.txq := rfl
@[simp] theorem raise_txReject_ill (s : State) : (raise .txReject s).ill = s.ill := rfl
@[simp] theorem raise_txReject_txOvf (s : State) : (raise .txReject s).txOvf = s.txOvf := rfl
@[simp] theorem raise_txReject_txRej (s : State) : (raise .txReject s).txRej = true := rfl
@[simp] theorem raise_txReject_cmds (s : State) : (raise .txReject s).cmds = s.cmds := rfl
@[simp] theorem raise_txReject_turns (s : State) : (raise .txReject s).turns = s.turns := rfl
@[simp] theorem raise_txReject_reads (s : State) : (raise .txReject s).reads = s.reads := rfl
@[simp] theorem raise_txReject_taken (s : State) : (raise .txReject s).taken = s.taken := rfl
@[simp] theorem raise_txReject_sent (s : State) : (raise .txReject s).sent = s.sent := rfl

/-! ### acknowledge -/

@[simp] theorem acknowledge_illegalCommand_config (s : State) : (acknowledge .illegalCommand s).config = s.config := rfl
@[simp] theorem acknowledge_illegalCommand_crcState (s : State) : (acknowledge .illegalCommand s).crcState = s.crcState := rfl
@[simp] theorem acknowledge_illegalCommand_rxb (s : State) : (acknowledge .illegalCommand s).rxb = s.rxb := rfl
@[simp] theorem acknowledge_illegalCommand_resyncCount (s : State) : (acknowledge .illegalCommand s).resyncCount = s.resyncCount := rfl
@[simp] theorem acknowledge_illegalCommand_evq (s : State) : (acknowledge .illegalCommand s).evq = s.evq := rfl
@[simp] theorem acknowledge_illegalCommand_txb (s : State) : (acknowledge .illegalCommand s).txb = s.txb := rfl
@[simp] theorem acknowledge_illegalCommand_txq (s : State) : (acknowledge .illegalCommand s).txq = s.txq := rfl
@[simp] theorem acknowledge_illegalCommand_ill (s : State) : (acknowledge .illegalCommand s).ill = false := rfl
@[simp] theorem acknowledge_illegalCommand_txOvf (s : State) : (acknowledge .illegalCommand s).txOvf = s.txOvf := rfl
@[simp] theorem acknowledge_illegalCommand_txRej (s : State) : (acknowledge .illegalCommand s).txRej = s.txRej := rfl
@[simp] theorem acknowledge_illegalCommand_cmds (s : State) : (acknowledge .illegalCommand s).cmds = s.cmds := rfl
@[simp] theorem acknowledge_illegalCommand_turns (s : State) : (acknowledge .illegalCommand s).turns = s.turns := rfl
@[simp] theorem acknowledge_illegalCommand_reads (s : State) : (acknowledge .illegalCommand s).reads = s.reads := rfl
@[simp] theorem acknowledge_illegalCommand_taken (s : State) : (acknowledge .illegalCommand s).taken = s.taken := rfl
@[simp] theorem acknowledge_illegalCommand_sent (s : State) : (acknowledge .illegalCommand s).sent = s.sent := rfl

/-! ### acknowledge -/

@[simp] theorem acknowledge_txOverflow_config (s : State) : (acknowledge .txOverflow s).config = s.config := rfl
@[simp] theorem acknowledge_txOverflow_crcState (s : State) : (acknowledge .txOverflow s).crcState = s.crcState := rfl
@[simp] theorem acknowledge_txOverflow_rxb (s : State) : (acknowledge .txOverflow s).rxb = s.rxb := rfl
@[simp] theorem acknowledge_txOverflow_resyncCount (s : State) : (acknowledge .txOverflow s).resyncCount = s.resyncCount := rfl
@[simp] theorem acknowledge_txOverflow_evq (s : State) : (acknowledge .txOverflow s).evq = s.evq := rfl
@[simp] theorem acknowledge_txOverflow_txb (s : State) : (acknowledge .txOverflow s).txb = s.txb := rfl
@[simp] theorem acknowledge_txOverflow_txq (s : State) : (acknowledge .txOverflow s).txq = s.txq := rfl
@[simp] theorem acknowledge_txOverflow_ill (s : State) : (acknowledge .txOverflow s).ill = s.ill := rfl
@[simp] theorem acknowledge_txOverflow_txOvf (s : State) : (acknowledge .txOverflow s).txOvf = false := rfl
@[simp] theorem acknowledge_txOverflow_txRej (s : State) : (acknowledge .txOverflow s).txRej = s.txRej := rfl
@[simp] theorem acknowledge_txOverflow_cmds (s : State) : (acknowledge .txOverflow s).cmds = s.cmds := rfl
@[simp] theorem acknowledge_txOverflow_turns (s : State) : (acknowledge .txOverflow s).turns = s.turns := rfl
@[simp] theorem acknowledge_txOverflow_reads (s : State) : (acknowledge .txOverflow s).reads = s.reads := rfl
@[simp] theorem acknowledge_txOverflow_taken (s : State) : (acknowledge .txOverflow s).taken = s.taken := rfl
@[simp] theorem acknowledge_txOverflow_sent (s : State) : (acknowledge .txOverflow s).sent = s.sent := rfl

/-! ### acknowledge -/

@[simp] theorem acknowledge_txReject_config (s : State) : (acknowledge .txReject s).config = s.config := rfl
@[simp] theorem acknowledge_txReject_crcState (s : State) : (acknowledge .txReject s).crcState = s.crcState := rfl
@[simp] theorem acknowledge_txReject_rxb (s : State) : (acknowledge .txReject s).rxb = s.rxb := rfl
@[simp] theorem acknowledge_txReject_resyncCount (s : State) : (acknowledge .txReject s).resyncCount = s.resyncCount := rfl
@[simp] theorem acknowledge_txReject_evq (s : State) : (acknowledge .txReject s).evq = s.evq := rfl
@[simp] theorem acknowledge_txReject_txb (s : State) : (acknowledge .txReject s).txb = s.txb := rfl
@[simp] theorem acknowledge_txReject_txq (s : State) : (acknowledge .txReject s).txq = s.txq := rfl
@[simp] theorem acknowledge_txReject_ill (s : State) : (acknowledge .txReject s).ill = s.ill := rfl
@[simp] theorem acknowledge_txReject_txOvf (s : State) : (acknowledge .txReject s).txOvf = s.txOvf := rfl
@[simp] theorem acknowledge_txReject_txRej (s : State) : (acknowledge .txReject s).txRej = false := rfl
@[simp] theorem acknowledge_txReject_cmds (s : State) : (acknowledge .txReject s).cmds = s.cmds := rfl
@[simp] theorem acknowledge_txReject_turns (s : State) : (acknowledge .txReject s).turns = s.turns := rfl
@[simp] theorem acknowledge_txReject_reads (s : State) : (acknowledge .txReject s).reads = s.reads := rfl
@[simp] theorem acknowledge_txReject_taken (s : State) : (acknowledge .txReject s).taken = s.taken := rfl
@[simp] theorem acknowledge_txReject_sent (s : State) : (acknowledge .txReject s).sent = s.sent := rfl

/-! ### illegalWord -/

@[simp] theorem illegalWord_config (s : State) : (illegalWord s).config = s.config := rfl
@[simp] theorem illegalWord_crcState (s : State) : (illegalWord s).crcState = s.crcState := rfl
@[simp] theorem illegalWord_rxb (s : State) : (illegalWord s).rxb = s.rxb := rfl
@[simp] theorem illegalWord_resyncCount (s : State) : (illegalWord s).resyncCount = s.resyncCount := rfl
@[simp] theorem illegalWord_evq (s : State) : (illegalWord s).evq = s.evq := rfl
@[simp] theorem illegalWord_txb (s : State) : (illegalWord s).txb = s.txb := rfl
@[simp] theorem illegalWord_txq (s : State) : (illegalWord s).txq = s.txq := rfl
@[simp] theorem illegalWord_ill (s : State) : (illegalWord s).ill = true := rfl
@[simp] theorem illegalWord_txOvf (s : State) : (illegalWord s).txOvf = s.txOvf := rfl
@[simp] theorem illegalWord_txRej (s : State) : (illegalWord s).txRej = s.txRej := rfl
@[simp] theorem illegalWord_cmds (s : State) : (illegalWord s).cmds = s.cmds := rfl
@[simp] theorem illegalWord_turns (s : State) : (illegalWord s).turns = s.turns := rfl
@[simp] theorem illegalWord_reads (s : State) : (illegalWord s).reads = s.reads := rfl
@[simp] theorem illegalWord_taken (s : State) : (illegalWord s).taken = s.taken := rfl
@[simp] theorem illegalWord_sent (s : State) : (illegalWord s).sent = s.sent := rfl

/-! ### emit -/

@[simp] theorem emit_config (e : Event) (s : State) : (emit e s).config = s.config := rfl
@[simp] theorem emit_crcState (e : Event) (s : State) : (emit e s).crcState = s.crcState := rfl
@[simp] theorem emit_rxb (e : Event) (s : State) : (emit e s).rxb = s.rxb := rfl
@[simp] theorem emit_resyncCount (e : Event) (s : State) : (emit e s).resyncCount = s.resyncCount := rfl
@[simp] theorem emit_evq (e : Event) (s : State) : (emit e s).evq = s.evq ++ [e] := rfl
@[simp] theorem emit_txb (e : Event) (s : State) : (emit e s).txb = s.txb := rfl
@[simp] theorem emit_txq (e : Event) (s : State) : (emit e s).txq = s.txq := rfl
@[simp] theorem emit_ill (e : Event) (s : State) : (emit e s).ill = s.ill := rfl
@[simp] theorem emit_txOvf (e : Event) (s : State) : (emit e s).txOvf = s.txOvf := rfl
@[simp] theorem emit_txRej (e : Event) (s : State) : (emit e s).txRej = s.txRej := rfl
@[simp] theorem emit_cmds (e : Event) (s : State) : (emit e s).cmds = s.cmds := rfl
@[simp] theorem emit_turns (e : Event) (s : State) : (emit e s).turns = s.turns := rfl
@[simp] theorem emit_reads (e : Event) (s : State) : (emit e s).reads = s.reads := rfl
@[simp] theorem emit_taken (e : Event) (s : State) : (emit e s).taken = s.taken := rfl
@[simp] theorem emit_sent (e : Event) (s : State) : (emit e s).sent = s.sent := rfl

/-! ### enqueueTx -/

@[simp] theorem enqueueTx_config (B : List Byte) (s : State) : (enqueueTx B s).config = s.config := rfl
@[simp] theorem enqueueTx_crcState (B : List Byte) (s : State) : (enqueueTx B s).crcState = s.crcState := rfl
@[simp] theorem enqueueTx_rxb (B : List Byte) (s : State) : (enqueueTx B s).rxb = s.rxb := rfl
@[simp] theorem enqueueTx_resyncCount (B : List Byte) (s : State) : (enqueueTx B s).resyncCount = s.resyncCount := rfl
@[simp] theorem enqueueTx_evq (B : List Byte) (s : State) : (enqueueTx B s).evq = s.evq := rfl
@[simp] theorem enqueueTx_txb (B : List Byte) (s : State) : (enqueueTx B s).txb = s.txb := rfl
@[simp] theorem enqueueTx_txq (B : List Byte) (s : State) : (enqueueTx B s).txq = s.txq ++ B := rfl
@[simp] theorem enqueueTx_ill (B : List Byte) (s : State) : (enqueueTx B s).ill = s.ill := rfl
@[simp] theorem enqueueTx_txOvf (B : List Byte) (s : State) : (enqueueTx B s).txOvf = s.txOvf := rfl
@[simp] theorem enqueueTx_txRej (B : List Byte) (s : State) : (enqueueTx B s).txRej = s.txRej := rfl
@[simp] theorem enqueueTx_cmds (B : List Byte) (s : State) : (enqueueTx B s).cmds = s.cmds := rfl
@[simp] theorem enqueueTx_turns (B : List Byte) (s : State) : (enqueueTx B s).turns = s.turns := rfl
@[simp] theorem enqueueTx_reads (B : List Byte) (s : State) : (enqueueTx B s).reads = s.reads := rfl
@[simp] theorem enqueueTx_taken (B : List Byte) (s : State) : (enqueueTx B s).taken = s.taken := rfl
@[simp] theorem enqueueTx_sent (B : List Byte) (s : State) : (enqueueTx B s).sent = s.sent := rfl

/-! ### dropRx -/

@[simp] theorem dropRx_config (n : Nat) (s : State) : (dropRx n s).config = s.config := rfl
@[simp] theorem dropRx_crcState (n : Nat) (s : State) : (dropRx n s).crcState = s.crcState := rfl
@[simp] theorem dropRx_rxb (n : Nat) (s : State) : (dropRx n s).rxb = s.rxb.drop n := rfl
@[simp] theorem dropRx_resyncCount (n : Nat) (s : State) : (dropRx n s).resyncCount = s.resyncCount := rfl
@[simp] theorem dropRx_evq (n : Nat) (s : State) : (dropRx n s).evq = s.evq := rfl
@[simp] theorem dropRx_txb (n : Nat) (s : State) : (dropRx n s).txb = s.txb := rfl
@[simp] theorem dropRx_txq (n : Nat) (s : State) : (dropRx n s).txq = s.txq := rfl
@[simp] theorem dropRx_ill (n : Nat) (s : State) : (dropRx n s).ill = s.ill := rfl
@[simp] theorem dropRx_txOvf (n : Nat) (s : State) : (dropRx n s).txOvf = s.txOvf := rfl
@[simp] theorem dropRx_txRej (n : Nat) (s : State) : (dropRx n s).txRej = s.txRej := rfl
@[simp] theorem dropRx_cmds (n : Nat) (s : State) : (dropRx n s).cmds = s.cmds := rfl
@[simp] theorem dropRx_turns (n : Nat) (s : State) : (dropRx n s).turns = s.turns := rfl
@[simp] theorem dropRx_reads (n : Nat) (s : State) : (dropRx n s).reads = s.reads := rfl
@[simp] theorem dropRx_taken (n : Nat) (s : State) : (dropRx n s).taken = s.taken := rfl
@[simp] theorem dropRx_sent (n : Nat) (s : State) : (dropRx n s).sent = s.sent := rfl

/-! ### clearTxb -/

@[simp] theorem clearTxb_config (s : State) : (clearTxb s).config = s.config := rfl
@[simp] theorem clearTxb_crcState (s : State) : (clearTxb s).crcState = s.crcState := rfl
@[simp] theorem clearTxb_rxb (s : State) : (clearTxb s).rxb = s.rxb := rfl
@[simp] theorem clearTxb_resyncCount (s : State) : (clearTxb s).resyncCount = s.resyncCount := rfl
@[simp] theorem clearTxb_evq (s : State) : (clearTxb s).evq = s.evq := rfl
@[simp] theorem clearTxb_txb (s : State) : (clearTxb s).txb = [] := rfl
@[simp] theorem clearTxb_txq (s : State) : (clearTxb s).txq = s.txq := rfl
@[simp] theorem clearTxb_ill (s : State) : (clearTxb s).ill = s.ill := rfl
@[simp] theorem clearTxb_txOvf (s : State) : (clearTxb s).txOvf = s.txOvf := rfl
@[simp] theorem clearTxb_txRej (s : State) : (clearTxb s).txRej = s.txRej := rfl
@[simp] theorem clearTxb_cmds (s : State) : (clearTxb s).cmds = s.cmds := rfl
@[simp] theorem clearTxb_turns (s : State) : (clearTxb s).turns = s.turns := rfl
@[simp] theorem clearTxb_reads (s : State) : (clearTxb s).reads = s.reads := rfl
@[simp] theorem clearTxb_taken (s : State) : (clearTxb s).taken = s.taken := rfl
@[simp] theorem clearTxb_sent (s : State) : (clearTxb s).sent = s.sent := rfl

/-! ### rejectCommit -/

@[simp] theorem rejectCommit_config (s : State) : (rejectCommit s).config = s.config := rfl
@[simp] theorem rejectCommit_crcState (s : State) : (rejectCommit s).crcState = s.crcState := rfl
@[simp] theorem rejectCommit_rxb (s : State) : (rejectCommit s).rxb = s.rxb := rfl
@[simp] theorem rejectCommit_resyncCount (s : State) : (rejectCommit s).resyncCount = s.resyncCount := rfl
@[simp] theorem rejectCommit_evq (s : State) : (rejectCommit s).evq = s.evq := rfl
@[simp] theorem rejectCommit_txb (s : State) : (rejectCommit s).txb = [] := rfl
@[simp] theorem rejectCommit_txq (s : State) : (rejectCommit s).txq = s.txq := rfl
@[simp] theorem rejectCommit_ill (s : State) : (rejectCommit s).ill = s.ill := rfl
@[simp] theorem rejectCommit_txOvf (s : State) : (rejectCommit s).txOvf = false := rfl
@[simp] theorem rejectCommit_txRej (s : State) : (rejectCommit s).txRej = true := rfl
@[simp] theorem rejectCommit_cmds (s : State) : (rejectCommit s).cmds = s.cmds := rfl
@[simp] theorem rejectCommit_turns (s : State) : (rejectCommit s).turns = s.turns := rfl
@[simp] theorem rejectCommit_reads (s : State) : (rejectCommit s).reads = s.reads := rfl
@[simp] theorem rejectCommit_taken (s : State) : (rejectCommit s).taken = s.taken := rfl
@[simp] theorem rejectCommit_sent (s : State) : (rejectCommit s).sent = s.sent := rfl

/-! ### commitFrame -/

@[simp] theorem commitFrame_config (F : List Byte) (s : State) : (commitFrame F s).config = s.config := rfl
@[simp] theorem commitFrame_crcState (F : List Byte) (s : State) : (commitFrame F s).crcState = s.crcState := rfl
@[simp] theorem commitFrame_rxb (F : List Byte) (s : State) : (commitFrame F s).rxb = s.rxb := rfl
@[simp] theorem commitFrame_resyncCount (F : List Byte) (s : State) : (commitFrame F s).resyncCount = s.resyncCount := rfl
@[simp] theorem commitFrame_evq (F : List Byte) (s : State) : (commitFrame F s).evq = s.evq := rfl
@[simp] theorem commitFrame_txb (F : List Byte) (s : State) : (commitFrame F s).txb = [] := rfl
@[simp] theorem commitFrame_txq (F : List Byte) (s : State) : (commitFrame F s).txq = s.txq ++ F := rfl
@[simp] theorem commitFrame_ill (F : List Byte) (s : State) : (commitFrame F s).ill = s.ill := rfl
@[simp] theorem commitFrame_txOvf (F : List Byte) (s : State) : (commitFrame F s).txOvf = s.txOvf := rfl
@[simp] theorem commitFrame_txRej (F : List Byte) (s : State) : (commitFrame F s).txRej = s.txRej := rfl
@[simp] theorem commitFrame_cmds (F : List Byte) (s : State) : (commitFrame F s).cmds = s.cmds := rfl
@[simp] theorem commitFrame_turns (F : List Byte) (s : State) : (commitFrame F s).turns = s.turns := rfl
@[simp] theorem commitFrame_reads (F : List Byte) (s : State) : (commitFrame F s).reads = s.reads := rfl
@[simp] theorem commitFrame_taken (F : List Byte) (s : State) : (commitFrame F s).taken = s.taken := rfl
@[simp] theorem commitFrame_sent (F : List Byte) (s : State) : (commitFrame F s).sent = s.sent := rfl

/-! ### regRead -/

@[simp] theorem regRead_config (idx : Byte) (s : State) : (regRead idx s).config = s.config := rfl
@[simp] theorem regRead_crcState (idx : Byte) (s : State) : (regRead idx s).crcState = s.crcState := rfl
@[simp] theorem regRead_rxb (idx : Byte) (s : State) : (regRead idx s).rxb = s.rxb := rfl
@[simp] theorem regRead_resyncCount (idx : Byte) (s : State) : (regRead idx s).resyncCount = s.resyncCount := rfl
@[simp] theorem regRead_evq (idx : Byte) (s : State) : (regRead idx s).evq = s.evq := rfl
@[simp] theorem regRead_txb (idx : Byte) (s : State) : (regRead idx s).txb = s.txb := rfl
@[simp] theorem regRead_txq (idx : Byte) (s : State) : (regRead idx s).txq = s.txq := rfl
@[simp] theorem regRead_ill (idx : Byte) (s : State) : (regRead idx s).ill = s.ill := rfl
@[simp] theorem regRead_txOvf (idx : Byte) (s : State) : (regRead idx s).txOvf = s.txOvf := rfl
@[simp] theorem regRead_txRej (idx : Byte) (s : State) : (regRead idx s).txRej = s.txRej := rfl
@[simp] theorem regRead_cmds (idx : Byte) (s : State) : (regRead idx s).cmds = s.cmds := rfl
@[simp] theorem regRead_turns (idx : Byte) (s : State) : (regRead idx s).turns = s.turns := rfl
@[simp] theorem regRead_reads (idx : Byte) (s : State) : (regRead idx s).reads = s.reads ++ [(idx, regValue idx s)] := rfl
@[simp] theorem regRead_taken (idx : Byte) (s : State) : (regRead idx s).taken = s.taken := rfl
@[simp] theorem regRead_sent (idx : Byte) (s : State) : (regRead idx s).sent = s.sent := rfl

/-! ### resetBlock -/

@[simp] theorem resetBlock_config (r : Bool) (s : State) : (resetBlock r s).config = s.config := rfl
@[simp] theorem resetBlock_crcState (r : Bool) (s : State) : (resetBlock r s).crcState = 0xFFFF := rfl
@[simp] theorem resetBlock_rxb (r : Bool) (s : State) : (resetBlock r s).rxb = [] := rfl
@[simp] theorem resetBlock_resyncCount (r : Bool) (s : State) : (resetBlock r s).resyncCount = 0 := rfl
@[simp] theorem resetBlock_evq (r : Bool) (s : State) : (resetBlock r s).evq = [] := rfl
@[simp] theorem resetBlock_txb (r : Bool) (s : State) : (resetBlock r s).txb = [] := rfl
@[simp] theorem resetBlock_txq (r : Bool) (s : State) : (resetBlock r s).txq = [] := rfl
@[simp] theorem resetBlock_ill (r : Bool) (s : State) : (resetBlock r s).ill = false := rfl
@[simp] theorem resetBlock_txOvf (r : Bool) (s : State) : (resetBlock r s).txOvf = false := rfl
@[simp] theorem resetBlock_txRej (r : Bool) (s : State) : (resetBlock r s).txRej = false := rfl
@[simp] theorem resetBlock_cmds (r : Bool) (s : State) : (resetBlock r s).cmds = if r then s.cmds else s.cmds.tail := rfl
@[simp] theorem resetBlock_turns (r : Bool) (s : State) : (resetBlock r s).turns = s.turns := rfl
@[simp] theorem resetBlock_reads (r : Bool) (s : State) : (resetBlock r s).reads = s.reads := rfl
@[simp] theorem resetBlock_taken (r : Bool) (s : State) : (resetBlock r s).taken = s.taken := rfl
@[simp] theorem resetBlock_sent (r : Bool) (s : State) : (resetBlock r s).sent = s.sent := rfl

/-! ### offering -/

@[simp] theorem offering_config (ws : List Word) (s : State) : (offering ws s).config = s.config := rfl
@[simp] theorem offering_crcState (ws : List Word) (s : State) : (offering ws s).crcState = s.crcState := rfl
@[simp] theorem offering_rxb (ws : List Word) (s : State) : (offering ws s).rxb = s.rxb := rfl
@[simp] theorem offering_resyncCount (ws : List Word) (s : State) : (offering ws s).resyncCount = s.resyncCount := rfl
@[simp] theorem offering_evq (ws : List Word) (s : State) : (offering ws s).evq = s.evq := rfl
@[simp] theorem offering_txb (ws : List Word) (s : State) : (offering ws s).txb = s.txb := rfl
@[simp] theorem offering_txq (ws : List Word) (s : State) : (offering ws s).txq = s.txq := rfl
@[simp] theorem offering_ill (ws : List Word) (s : State) : (offering ws s).ill = s.ill := rfl
@[simp] theorem offering_txOvf (ws : List Word) (s : State) : (offering ws s).txOvf = s.txOvf := rfl
@[simp] theorem offering_txRej (ws : List Word) (s : State) : (offering ws s).txRej = s.txRej := rfl
@[simp] theorem offering_cmds (ws : List Word) (s : State) : (offering ws s).cmds = ws ++ s.cmds := rfl
@[simp] theorem offering_turns (ws : List Word) (s : State) : (offering ws s).turns = List.replicate ws.length .command ++ s.turns := rfl
@[simp] theorem offering_reads (ws : List Word) (s : State) : (offering ws s).reads = s.reads := rfl
@[simp] theorem offering_taken (ws : List Word) (s : State) : (offering ws s).taken = s.taken := rfl
@[simp] theorem offering_sent (ws : List Word) (s : State) : (offering ws s).sent = s.sent := rfl

end Sys2Proof.Machine
end

