-- ==== Sys2Proof/Laws/Encoder.lean ====
section
/-! SUPPORT. The frame of a payload and what the encoder's commands can do. -/

namespace Sys2Proof.Machine

@[simp] theorem lengthField_length (P : List Byte) : (lengthField P).length = 2 := rfl

@[simp] theorem frameOf_length (P : List Byte) : (frameOf P).length = 6 + P.length := by
  simp [frameOf]
  omega

theorem frameOf_ne_nil (P : List Byte) : frameOf P ≠ [] := by simp [frameOf]

theorem encodeFrame_of_le {P : List Byte} (h : P.length ≤ 65535) : encodeFrame P = some (frameOf P) := by
  simp [encodeFrame, Config.maxPayload, h]

theorem encodeFrame_of_gt {P : List Byte} (h : 65535 < P.length) : encodeFrame P = none := by
  simp [encodeFrame, Config.maxPayload, show ¬P.length ≤ 65535 by omega]

/-- All that TX_PUSH can do: drop the byte, raise the overflow, or append. -/
theorem execTxPush_cases {b : Byte} {s t : State} (h : execTxPush b s = .next t) :
    (s.txOvf = true ∧ t = s) ∨
    (s.txOvf = false ∧ s.txb.length = 65535 ∧ t = raise .txOverflow s) ∨
    (s.txOvf = false ∧ s.txb.length ≠ 65535 ∧ t = { s with txb := s.txb ++ [b] }) := by
  unfold execTxPush at h
  split at h
  · next ho => cases h; exact .inl ⟨ho, rfl⟩
  · next ho =>
    split at h
    · next hl => cases h; exact .inr (.inl ⟨by simpa using ho, hl, rfl⟩)
    · next hl => cases h; exact .inr (.inr ⟨by simpa using ho, hl, rfl⟩)

/-- All that TX_COMMIT can do when it answers a next state: reject, wait, or queue the frame. -/
theorem execTxCommit_cases {s t : State} (h : execTxCommit s = .next t) :
    (s.txOvf = true ∧ t = rejectCommit s) ∨
    (s.txOvf = false ∧ s.txb.length ≤ 65535 ∧ s.config.txqCap - s.txq.length < 6 + s.txb.length ∧ t = s) ∨
    (s.txOvf = false ∧ s.txb.length ≤ 65535 ∧ 6 + s.txb.length ≤ s.config.txqCap - s.txq.length ∧
      t = commitFrame (frameOf s.txb) s) := by
  unfold execTxCommit at h
  split at h
  · next ho => cases h; exact .inl ⟨ho, rfl⟩
  · next ho =>
    have ho : s.txOvf = false := by simpa using ho
    by_cases hl : s.txb.length ≤ 65535
    · rw [encodeFrame_of_le hl] at h
      by_cases hr : txqLacksRoom (frameOf s.txb) s = true
      · simp only [hr, if_true, hold] at h
        cases h
        exact .inr (.inl ⟨ho, hl, by simpa [txqLacksRoom] using hr, rfl⟩)
      · simp only [hr] at h
        cases h
        exact .inr (.inr ⟨ho, hl, by simpa [txqLacksRoom] using hr, rfl⟩)
    · rw [encodeFrame_of_gt (by omega)] at h
      cases h

/-- When TX_COMMIT is held. -/
theorem txCommitHeld_iff (s : State) : txCommitHeld s = true ↔
    s.txOvf = false ∧ s.txb.length ≤ 65535 ∧ s.config.txqCap - s.txq.length < 6 + s.txb.length := by
  unfold txCommitHeld
  by_cases hl : s.txb.length ≤ 65535
  · simp [encodeFrame_of_le hl, txqLacksRoom, hl]
  · simp [encodeFrame_of_gt (show 65535 < s.txb.length by omega), hl]

/-- TX_POP on an empty queue waits; otherwise the head goes to the sink. -/
theorem txPop_of_nil {s : State} (h : s.txq = []) : txPop s = s := by simp [txPop, h]

theorem txPop_of_cons {s : State} {b : Byte} {rest : List Byte} (h : s.txq = b :: rest) :
    txPop s = { s with txq := rest, sent := s.sent ++ [b] } := by simp [txPop, h]

/-- TX_POP writes only TXQ and the sink's record. -/
theorem txPop_frame (s : State) : txPop s = { s with txq := (txPop s).txq, sent := (txPop s).sent } := by
  unfold txPop
  split <;> rfl

end Sys2Proof.Machine
end

