-- ==== Sys2Proof/Laws/PerInstr.lean ====
section
/-! SUPPORT. The family EncodedInOwnRow: the word of a well-formed instruction meets the row of the opcode map (R86) that the
instruction belongs to. -/

namespace Sys2Proof.Laws.EncodedInOwnRow

/-- The instruction's word, when it has one, lies in its row of R86. -/
def Statement (i : Instr) : Prop := i.wellFormed = true → i.row.meets (encode i) = true

/-! Every operand byte, as the numbers below 256. -/

theorem crcUpdate_meets : ∀ n : Fin 256, (Instr.crcUpdate 0).row.meets (encode (.crcUpdate (BitVec.ofFin n))) = true := by
  decide +kernel

theorem rxPush_meets : ∀ n : Fin 256, (Instr.rxPush 0).row.meets (encode (.rxPush (BitVec.ofFin n))) = true := by
  decide +kernel

theorem txPush_meets : ∀ n : Fin 256, (Instr.txPush 0).row.meets (encode (.txPush (BitVec.ofFin n))) = true := by
  decide +kernel

theorem clrStatus_meets : ∀ n : Fin 256, (Instr.clrStatus (BitVec.ofFin n)).wellFormed = true →
    (Instr.clrStatus 0).row.meets (encode (.clrStatus (BitVec.ofFin n))) = true := by
  decide +kernel

theorem nop : Statement .nop := fun _ => rfl
theorem crcInit : Statement .crcInit := fun _ => rfl
theorem crcUpdate (b : Byte) : Statement (.crcUpdate b) := fun _ => crcUpdate_meets b.toFin
theorem rxPush (b : Byte) : Statement (.rxPush b) := fun _ => rxPush_meets b.toFin
theorem rxClear : Statement .rxClear := fun _ => rfl
theorem txPush (b : Byte) : Statement (.txPush b) := fun _ => txPush_meets b.toFin
theorem txCommit : Statement .txCommit := fun _ => rfl
theorem txAbort : Statement .txAbort := fun _ => rfl
theorem clrStatus (m : Byte) : Statement (.clrStatus m) := clrStatus_meets m.toFin

end Sys2Proof.Laws.EncodedInOwnRow
end

