-- ==== Sys2Proof/Laws/Synchronizer.lean ====
section
/-! SUPPORT. What the decode step, the loop and the pops can do. -/

namespace Sys2Proof.Machine

theorem quiescent_iff (B : List Byte) : quiescent B = true ↔ tryDecode B = .incomplete := by simp [quiescent]

/-- Every decode step writes only RXB, RESYNC_COUNT and EVQ. -/
theorem syncStep_frame (s : State) :
    syncStep s = { s with rxb := (syncStep s).rxb, resyncCount := (syncStep s).resyncCount, evq := (syncStep s).evq } := by
  unfold syncStep
  split <;> rfl

/-- All that a decode step can do. -/
theorem syncStep_cases (s : State) :
    (tryDecode s.rxb = .incomplete ∧ syncStep s = s) ∨
    (tryDecode s.rxb = .notAligned ∧
      syncStep s = { s with rxb := s.rxb.drop 1, resyncCount := satInc32 s.resyncCount }) ∨
    (∃ L P D, tryDecode s.rxb = .valid L P D ∧
      syncStep s = { s with rxb := s.rxb.drop (6 + L.toNat), evq := s.evq ++ [validEvent L P D] }) ∨
    (∃ L P D K, tryDecode s.rxb = .invalid L P D K ∧
      syncStep s = { s with rxb := s.rxb.drop (6 + L.toNat), evq := s.evq ++ [invalidEvent L P D K] }) := by
  unfold syncStep
  split
  · next h => exact .inl ⟨h, rfl⟩
  · next h => exact .inr (.inl ⟨h, rfl⟩)
  · next L P D h => exact .inr (.inr (.inl ⟨L, P, D, h, rfl⟩))
  · next L P D K h => exact .inr (.inr (.inr ⟨L, P, D, K, h, rfl⟩))

theorem satInc32_le (c : RegVal) : c.toNat ≤ (satInc32 c).toNat := by
  unfold satInc32
  split
  · next h => bv_omega
  · next h => bv_omega

/-- A decode step never lowers the count of discarded bytes. -/
theorem syncStep_resyncCount_le (s : State) : s.resyncCount.toNat ≤ (syncStep s).resyncCount.toNat := by
  rcases syncStep_cases s with ⟨-, h⟩ | ⟨-, h⟩ | ⟨L, P, D, -, h⟩ | ⟨L, P, D, K, -, h⟩ <;> rw [h]
  exact satInc32_le _

/-- The loop writes only RXB, RESYNC_COUNT and EVQ. -/
theorem syncLoop_frame (n : Nat) (s : State) :
    syncLoop n s =
      { s with rxb := (syncLoop n s).rxb, resyncCount := (syncLoop n s).resyncCount, evq := (syncLoop n s).evq } := by
  induction n generalizing s with
  | zero => rfl
  | succ n ih =>
    unfold syncLoop
    split
    · rw [ih (syncStep s), syncStep_frame s]
    · rfl

/-- Nor does the loop. -/
theorem syncLoop_resyncCount_le (n : Nat) (s : State) : s.resyncCount.toNat ≤ (syncLoop n s).resyncCount.toNat := by
  induction n generalizing s with
  | zero => exact Nat.le_refl _
  | succ n ih =>
    unfold syncLoop
    split
    · exact Nat.le_trans (syncStep_resyncCount_le s) (ih (syncStep s))
    · exact Nat.le_refl _

/-- One round of the loop on a buffer where a step is possible; the length test of R161 adds nothing. -/
theorem syncLoop_step {n : Nat} {s : State} (h : quiescent s.rxb = false) :
    syncLoop (n + 1) s = syncLoop n (syncStep s) := by
  have h6 : Config.minFrame ≤ s.rxb.length := by
    by_contra hc
    have : quiescent s.rxb = true := (quiescent_iff _).2 (tryDecode_short (by simpa [Config.minFrame] using hc))
    simp [h] at this
  simp [syncLoop, h6, h]

/-- The loop ends where no step is possible. -/
theorem syncLoop_stop {n : Nat} {s : State} (h : quiescent s.rxb = true) : syncLoop n s = s := by
  cases n <;> simp [syncLoop, h]

/-- A byte that leaves the buffer quiescent only joins its tail. -/
theorem acceptByte_of_quiescent {b : Byte} {s : State} (h : quiescent (s.rxb ++ [b]) = true) :
    acceptByte b s = { s with rxb := s.rxb ++ [b] } := syncLoop_stop h

/-- Accepting a byte writes only RXB, RESYNC_COUNT and EVQ. -/
theorem acceptByte_frame (b : Byte) (s : State) :
    acceptByte b s =
      { s with rxb := (acceptByte b s).rxb, resyncCount := (acceptByte b s).resyncCount, evq := (acceptByte b s).evq } :=
  syncLoop_frame _ _

/-- The loop does not look at what the agents hold. -/
theorem syncLoop_withAgents (n : Nat) (s : State) (ws : List Word) (ts : List Turn) :
    syncLoop n { s with cmds := ws, turns := ts } = { syncLoop n s with cmds := ws, turns := ts } := by
  induction n generalizing s with
  | zero => rfl
  | succ n ih =>
    have hstep : syncStep { s with cmds := ws, turns := ts } = { syncStep s with cmds := ws, turns := ts } := by
      unfold syncStep
      cases tryDecode s.rxb <;> rfl
    cases hq : quiescent s.rxb with
    | true =>
      rw [syncLoop_stop hq]
      exact syncLoop_stop hq
    | false =>
      rw [syncLoop_step (s := s) hq, syncLoop_step (s := { s with cmds := ws, turns := ts }) hq, hstep]
      exact ih (syncStep s)

/-- Nor does accepting a byte. -/
theorem acceptByte_withAgents (b : Byte) (s : State) (ws : List Word) (ts : List Turn) :
    acceptByte b { s with cmds := ws, turns := ts } = { acceptByte b s with cmds := ws, turns := ts } :=
  syncLoop_withAgents _ { s with rxb := s.rxb ++ [b] } ws ts

/-- Accepting a byte never lowers the count of discarded bytes. -/
theorem acceptByte_resyncCount_le (b : Byte) (s : State) : s.resyncCount.toNat ≤ (acceptByte b s).resyncCount.toNat :=
  syncLoop_resyncCount_le _ { s with rxb := s.rxb ++ [b] }

theorem execRxPush_of_full {b : Byte} {s : State} (h : evqFull s = true) : execRxPush b s = .next s := by
  simp [execRxPush, rxPushHeld, h, hold]

theorem execRxPush_of_room {b : Byte} {s : State} (h : evqFull s = false) :
    execRxPush b s = .next (acceptByte b s) := by simp [execRxPush, rxPushHeld, h]

theorem evqFull_iff (s : State) : evqFull s = true ↔ s.evq.length = s.config.evqCap := by simp [evqFull]

/-- EVT_POP on an empty queue waits; otherwise the oldest event goes to the consumer. -/
theorem evtPop_of_nil {s : State} (h : s.evq = []) : evtPop s = s := by simp [evtPop, h]

theorem evtPop_of_cons {s : State} {e : Event} {rest : List Event} (h : s.evq = e :: rest) :
    evtPop s = { s with evq := rest, taken := s.taken ++ [e] } := by simp [evtPop, h]

/-- EVT_POP writes only EVQ and the consumer's record. -/
theorem evtPop_frame (s : State) : evtPop s = { s with evq := (evtPop s).evq, taken := (evtPop s).taken } := by
  unfold evtPop
  split <;> rfl

end Sys2Proof.Machine
end

