-- ==== Sys2Proof/Laws/Step.lean ====
section
/-! SUPPORT. What a command and a step can do, once: later proofs cite these instead of unfolding exec and step. -/

namespace Sys2Proof.Machine

theorem step_idle {s : State} (h : s.turns = []) : step s = .next s := by simp [step, h]

theorem step_turn {s : State} {t : Turn} {ts : List Turn} (h : s.turns = t :: ts) :
    step s = runTurn t { s with turns := ts } := by simp [step, h]

/-- Whether a command is held depends only on EVQ, TXQ, TXB, TX_OVF and the parameters. -/
theorem held_congr {s t : State} (i : Instr) (hc : t.config = s.config) (he : t.evq = s.evq) (hq : t.txq = s.txq)
    (hb : t.txb = s.txb) (ho : t.txOvf = s.txOvf) : held i t = held i s := by
  cases i <;> simp [held, rxPushHeld, evqFull, txCommitHeld, txqLacksRoom, hc, he, hq, hb, ho]

/-- A held command leaves the state as it is. -/
theorem exec_of_held {i : Instr} {s : State} (h : held i s = true) : exec i s = .next s := by
  cases i with
  | rxPush b => exact execRxPush_of_full h
  | txCommit =>
    obtain ⟨ho, hl, hr⟩ := (txCommitHeld_iff s).1 h
    simp [exec, execTxCommit, ho, encodeFrame_of_le hl, txqLacksRoom, hr, hold]
  | nop => cases h
  | crcInit => cases h
  | crcUpdate b => cases h
  | rxClear => cases h
  | txPush b => cases h
  | txAbort => cases h
  | clrStatus m => cases h

/-- CLR_STATUS as one update of the two sticky flags. -/
theorem execClrStatus_eq (m : Byte) (s : State) :
    execClrStatus m s = .next { s with ill := s.ill && !maskBit m 0, txRej := s.txRej && !maskBit m 2 } := by
  unfold execClrStatus
  cases maskBit m 0 <;> cases maskBit m 2 <;> simp [acknowledge]

/-- All that a command can do when it answers a next state. -/
theorem exec_cases {i : Instr} {s t : State} (h : exec i s = .next t) :
    (held i s = true ∧ t = s) ∨
    (i = .nop ∧ t = s) ∨
    (i = .crcInit ∧ t = { s with crcState := 0xFFFF }) ∨
    (∃ b, i = .crcUpdate b ∧ t = { s with crcState := crcStep s.crcState b }) ∨
    (∃ b, i = .rxPush b ∧ evqFull s = false ∧ t = acceptByte b s) ∨
    (i = .rxClear ∧ t = { s with rxb := [] }) ∨
    (∃ b, i = .txPush b ∧ s.txOvf = true ∧ t = s) ∨
    (∃ b, i = .txPush b ∧ s.txOvf = false ∧ s.txb.length = 65535 ∧ t = { s with txOvf := true }) ∨
    (∃ b, i = .txPush b ∧ s.txOvf = false ∧ s.txb.length ≠ 65535 ∧ t = { s with txb := s.txb ++ [b] }) ∨
    (i = .txCommit ∧ s.txOvf = true ∧ t = { s with txRej := true, txb := [], txOvf := false }) ∨
    (i = .txCommit ∧ s.txOvf = false ∧ s.txb.length ≤ 65535 ∧ 6 + s.txb.length ≤ s.config.txqCap - s.txq.length ∧
      t = { s with txq := s.txq ++ frameOf s.txb, txb := [] }) ∨
    (i = .txAbort ∧ t = { s with txb := [], txOvf := false }) ∨
    (∃ m, i = .clrStatus m ∧
      t = { s with ill := s.ill && !maskBit m 0, txRej := s.txRej && !maskBit m 2 }) := by
  cases i with
  | nop => cases h; simp
  | crcInit => cases h; simp [Config.crcInit]
  | crcUpdate b => cases h; simp
  | rxClear => cases h; simp
  | txAbort => cases h; simp [acknowledge, clearTxb]
  | clrStatus m =>
    simp only [exec, execClrStatus_eq] at h
    cases h
    simp
  | rxPush b =>
    cases hf : evqFull s
    · simp only [exec, execRxPush_of_room hf] at h
      cases h
      simp
    · simp only [exec, execRxPush_of_full hf] at h
      cases h
      exact .inl ⟨hf, rfl⟩
  | txPush b =>
    rcases execTxPush_cases h with ⟨ho, rfl⟩ | ⟨ho, hl, rfl⟩ | ⟨ho, hl, rfl⟩ <;> simp_all [raise]
  | txCommit =>
    rcases execTxCommit_cases h with ⟨ho, rfl⟩ | ⟨ho, hl, hr, rfl⟩ | ⟨ho, hl, hr, rfl⟩
    · simp [ho, rejectCommit, acknowledge, clearTxb, raise]
    · exact .inl ⟨(txCommitHeld_iff _).2 ⟨ho, hl, hr⟩, rfl⟩
    · simp [ho, hl, hr, commitFrame, clearTxb, enqueueTx]

/-- No command writes the parameters or what the agents hold. -/
theorem exec_frame {i : Instr} {s t : State} (h : exec i s = .next t) :
    t.config = s.config ∧ t.cmds = s.cmds ∧ t.turns = s.turns ∧ t.reads = s.reads ∧ t.taken = s.taken ∧
      t.sent = s.sent := by
  rcases exec_cases h with ⟨-, rfl⟩ | ⟨-, rfl⟩ | ⟨-, rfl⟩ | ⟨b, -, rfl⟩ | ⟨b, -, -, rfl⟩ | ⟨-, rfl⟩ | ⟨b, -, -, rfl⟩ |
    ⟨b, -, -, -, rfl⟩ | ⟨b, -, -, -, rfl⟩ | ⟨-, -, rfl⟩ | ⟨-, -, -, -, rfl⟩ | ⟨-, rfl⟩ | ⟨m, -, rfl⟩
  all_goals first
    | exact ⟨rfl, rfl, rfl, rfl, rfl, rfl⟩
    | (rw [acceptByte_frame]; exact ⟨rfl, rfl, rfl, rfl, rfl, rfl⟩)

/-- All that the host's turn at the command port can do when it answers a next state. -/
theorem offerCommand_cases {s t : State} (h : offerCommand s = .next t) :
    (s.cmds = [] ∧ t = s) ∨
    (∃ w ws i, s.cmds = w :: ws ∧ decode w = .ok i ∧ held i s = true ∧ t = s) ∨
    (∃ w ws i, s.cmds = w :: ws ∧ decode w = .ok i ∧ held i s = false ∧ exec i { s with cmds := ws } = .next t) ∨
    (∃ w ws e, s.cmds = w :: ws ∧ decode w = .error e ∧ t = illegalWord { s with cmds := ws }) := by
  unfold offerCommand at h
  split at h
  · next hc => cases h; exact .inl ⟨hc, rfl⟩
  · next w ws hc =>
    split at h
    · next i hd =>
      split at h
      · next hh => cases h; exact .inr (.inl ⟨w, ws, i, hc, hd, hh, rfl⟩)
      · next hh => exact .inr (.inr (.inl ⟨w, ws, i, hc, hd, by simpa using hh, h⟩))
    · next e hd => cases h; exact .inr (.inr (.inr ⟨w, ws, e, hc, hd, rfl⟩))

/-- All that a step can do when it answers a next state, with the transaction it performs. -/
theorem step_cases {s t : State} (h : step s = .next t) :
    (performed s = none ∧ (t = s ∨ ∃ u ts, s.turns = u :: ts ∧ t = { s with turns := ts })) ∨
    (∃ i w ws ts, performed s = some (.exec i) ∧ s.turns = .command :: ts ∧ s.cmds = w :: ws ∧ decode w = .ok i ∧
      held i s = false ∧ exec i { s with turns := ts, cmds := ws } = .next t) ∨
    (∃ w ws ts, performed s = some (.illegal w) ∧ s.turns = .command :: ts ∧ s.cmds = w :: ws ∧
      t = { s with turns := ts, cmds := ws, ill := true }) ∨
    (∃ idx ts, performed s = some (.regRead idx) ∧ s.turns = .regRead idx :: ts ∧
      t = { s with turns := ts, reads := s.reads ++ [(idx, regValue idx s)] }) ∨
    (∃ e rest ts, performed s = some .evtPop ∧ s.turns = .evtPop :: ts ∧ s.evq = e :: rest ∧
      t = { s with turns := ts, evq := rest, taken := s.taken ++ [e] }) ∨
    (∃ b rest ts, performed s = some .txPop ∧ s.turns = .txPop :: ts ∧ s.txq = b :: rest ∧
      t = { s with turns := ts, txq := rest, sent := s.sent ++ [b] }) ∨
    (∃ r ts, performed s = some (.reset r) ∧ s.turns = .reset r :: ts ∧
      t = resetBlock r { s with turns := ts }) := by
  match ht : s.turns with
  | [] =>
    rw [step_idle ht] at h
    cases h
    exact .inl ⟨by simp [performed, ht], .inl rfl⟩
  | .command :: ts =>
    rw [step_turn ht] at h
    have hh : ∀ i, held i { s with turns := ts } = held i s := fun i => held_congr i rfl rfl rfl rfl rfl
    rcases offerCommand_cases h with ⟨hc, rfl⟩ | ⟨w, ws, i, hc, hd, hheld, rfl⟩ | ⟨w, ws, i, hc, hd, hheld, he⟩ |
      ⟨w, ws, e, hc, hd, rfl⟩
    · exact .inl ⟨by simp_all [performed, performedCommand], .inr ⟨_, _, rfl, rfl⟩⟩
    · rw [hh] at hheld
      exact .inl ⟨by simp_all [performed, performedCommand], .inr ⟨_, _, rfl, rfl⟩⟩
    · rw [hh] at hheld
      exact .inr (.inl ⟨i, w, ws, ts, by simp_all [performed, performedCommand], rfl, hc, hd, hheld, he⟩)
    · exact .inr (.inr (.inl ⟨w, ws, ts, by simp_all [performed, performedCommand], rfl, hc, rfl⟩))
  | .regRead idx :: ts =>
    rw [step_turn ht] at h
    cases h
    exact .inr (.inr (.inr (.inl ⟨idx, ts, by simp [performed, ht], rfl, rfl⟩)))
  | .evtPop :: ts =>
    rw [step_turn ht] at h
    cases h
    match he : s.evq with
    | [] => exact .inl ⟨by simp [performed, ht, evqNe, he], .inr ⟨_, _, rfl, by simp [evtPop]⟩⟩
    | e :: rest =>
      exact .inr (.inr (.inr (.inr (.inl ⟨e, rest, ts, by simp [performed, ht, evqNe, he], rfl, rfl,
        by simp [evtPop]⟩))))
  | .txPop :: ts =>
    rw [step_turn ht] at h
    cases h
    match he : s.txq with
    | [] => exact .inl ⟨by simp [performed, ht, txqNe, he], .inr ⟨_, _, rfl, by simp [txPop]⟩⟩
    | b :: rest =>
      exact .inr (.inr (.inr (.inr (.inr (.inl ⟨b, rest, ts, by simp [performed, ht, txqNe, he], rfl, rfl,
        by simp [txPop]⟩)))))
  | .reset r :: ts =>
    rw [step_turn ht] at h
    cases h
    exact .inr (.inr (.inr (.inr (.inr (.inr ⟨r, ts, by simp [performed, ht], rfl, rfl⟩)))))

theorem run_zero (s : State) : run 0 s = .next s := rfl

/-- One step of the host's run, for any machine. -/
theorem core_run_succ (M : Host.Core) (n : Nat) (s : M.State) : M.run (n + 1) s =
    match M.step s with
    | .next t => M.run n t
    | .fault r => .fault r
    | .refused r => .refused r := rfl

theorem run_succ_next {n : Nat} {s t : State} (h : step s = .next t) : run (n + 1) s = run n t := by
  have hr := core_run_succ Sys2Proof.core n s
  rw [show Sys2Proof.core.step s = .next t from h] at hr
  exact hr

theorem run_succ_fault {n : Nat} {s : State} {r : Fault} (h : step s = .fault r) : run (n + 1) s = .fault r := by
  have hr := core_run_succ Sys2Proof.core n s
  rw [show Sys2Proof.core.step s = .fault r from h] at hr
  exact hr

theorem run_succ_refused {n : Nat} {s : State} {r : Refusal} (h : step s = .refused r) :
    run (n + 1) s = .refused r := by
  have hr := core_run_succ Sys2Proof.core n s
  rw [show Sys2Proof.core.step s = .refused r from h] at hr
  exact hr

/-- Runs join end to end. -/
theorem run_add {m n : Nat} {s t : State} (h : run m s = .next t) : run (m + n) s = run n t := by
  induction m generalizing s with
  | zero => cases h; rw [Nat.zero_add]
  | succ m ih =>
    rw [Nat.succ_add]
    match hs : step s with
    | .next u =>
      rw [run_succ_next hs] at h ⊢
      exact ih h
    | .fault r =>
      rw [run_succ_fault hs] at h
      cases h
    | .refused r =>
      rw [run_succ_refused hs] at h
      cases h

end Sys2Proof.Machine
end

