-- ==== Sys2Proof/Tests/Slice0.lean ====
section
/-! SUPPORT. The model's own tests, their expected values from spec/95_test_vectors.md and the examples of the rules, and for
each statement a state and operands that meet its hypotheses. -/

namespace Sys2Proof.Tests

open Sys2Proof Sys2Proof.Machine

/-! ## Well-formedness: the one check refuses an ill-formed term -/

theorem test_wellFormed_refuses_txOvf_mask : (Instr.clrStatus 0x02).wellFormed = false := by decide
theorem test_wellFormed_refuses_live_mask : (Instr.clrStatus 0x08).wellFormed = false := by decide
theorem test_wellFormed_takes_clr_all : (Instr.clrStatus 0x05).wellFormed = true := by decide

/-! ## Decoding: words written out from R86 -/

theorem test_decode_nop : decode 0b0000000000000000 = .ok .nop := by decide
theorem test_decode_crcInit : decode 0b0000000100000000 = .ok .crcInit := by decide
theorem test_decode_crcUpdate : decode 0b0000001000110001 = .ok (.crcUpdate 0x31) := by decide
theorem test_decode_rxPush : decode 0b0001000010101010 = .ok (.rxPush 0xAA) := by decide
theorem test_decode_rxClear : decode 0b0001000100000000 = .ok .rxClear := by decide
theorem test_decode_txPush : decode 0b0010000011001000 = .ok (.txPush 0xC8) := by decide
theorem test_decode_txCommit : decode 0b0010000100000000 = .ok .txCommit := by decide
theorem test_decode_txAbort : decode 0b0010001000000000 = .ok .txAbort := by decide
theorem test_decode_clrStatus : decode 0b0011000000000101 = .ok (.clrStatus 0x05) := by decide
theorem test_decode_rejects_opcode : decode 0x4000 = .error (.unlistedOpcode 0x40) := by decide
theorem test_decode_rejects_operand : decode 0x0101 = .error (.nonzeroOperand 0x01 0x01) := by decide
theorem test_decode_rejects_mask : decode 0x3002 = .error (.reservedMaskBit 0x02) := by decide
theorem test_decodeTableWord_rxPush : decodeTableWord 16 0x10AA = some (.rxPush 0xAA) := by decide
theorem test_decodeTableWord_wide : decodeTableWord 32 0x110AA = none := by decide

/-! ## The commands -/

/-- The state an outcome goes on to. -/
def stateOf : Host.Outcome State Fault Refusal → Option State
  | .next s => some s
  | .fault _ => none
  | .refused _ => none

/-- The event of vector S1. -/
def eventOfF1 : Event :=
  { kind := .valid, length := 3, payload := [0xAA, 0xBB, 0xC8], declaredCrc := 0xFD88, computedCrc := 0xFD88 }

/-- EVQ_CAP = 1 and one event in EVQ (vectors S24, C19v). -/
def fullQueue : State := { State.resetWith { evqCap := 1, txqCap := 65541 } with evq := [eventOfF1] }

/-- The state after reset with the host about to offer one word. -/
def offered (s : State) (w : Word) : State := { s with cmds := [w], turns := [.command] }

/-- C1v. -/
theorem test_nop : stateOf (step (State.reset.withFetchWord 16 0x0000)) = some State.reset := by decide
/-- K17. -/
theorem test_crcInit : (stateOf (exec .crcInit { State.reset with crcState := 0x1234 })).map (·.crcState) = some 0xFFFF := by
  decide
/-- K18. -/
theorem test_crcUpdate : (stateOf (exec (.crcUpdate 0x00) State.reset)).map (regValue 0x02 ·) = some 0x0000BF40 := by
  decide +kernel
/-- R105 example. -/
theorem test_crcUpdate_example : (stateOf (exec (.crcUpdate 0x31) State.reset)).map (·.crcState) = some 0x947E := by
  decide +kernel
/-- S23. -/
theorem test_rxPush_completes_frame :
    stateOf (exec (.rxPush 0x88) { State.reset with rxb := [0xAA, 0xAA, 0x00, 0x03, 0xAA, 0xBB, 0xC8, 0xFD] }) =
      some { State.reset with evq := [eventOfF1] } := by decide +kernel
/-- S22. -/
theorem test_rxPush_counter_saturates :
    (stateOf (exec (.rxPush 0x07) { State.reset with
      rxb := [0x02, 0x03, 0x04, 0x05, 0x06], resyncCount := 0xFFFFFFFF })).map (fun t => (t.rxb, t.resyncCount)) =
      some ([0x03, 0x04, 0x05, 0x06, 0x07], 0xFFFFFFFF) := by decide +kernel
/-- S26. -/
theorem test_rxClear : (stateOf (exec .rxClear { State.reset with rxb := [0xAA, 0xAA, 0x00, 0x05, 0x01] })).map (·.rxb) =
    some [] := by decide
/-- T4. -/
theorem test_txPush : (stateOf (exec (.txPush 0x00) State.reset)).map (fun t => (t.txb, regValue 0x05 t)) = some ([0x00], 1) := by
  decide
/-- T7. -/
theorem test_txPush_after_overflow :
    stateOf (exec (.txPush 0x55) { State.reset with txOvf := true }) = some { State.reset with txOvf := true } := by decide
/-- T2. -/
theorem test_txCommit : (stateOf (exec .txCommit { State.reset with txb := [0xAA, 0xBB, 0xC8] })).map (fun t => (t.txq, t.txb)) =
    some ([0xAA, 0xAA, 0x00, 0x03, 0xAA, 0xBB, 0xC8, 0xFD, 0x88], []) := by decide +kernel
/-- T9. -/
theorem test_txCommit_rejects : stateOf (exec .txCommit { State.reset with txOvf := true, txb := [0x00] }) =
    some { State.reset with txRej := true } := by decide
/-- T12. -/
theorem test_txAbort : stateOf (exec .txAbort { State.reset with txOvf := true, txb := [0x01, 0x02] }) = some State.reset := by
  decide
/-- C5v. -/
theorem test_clrStatus : stateOf (exec (.clrStatus 0x04) { State.reset with ill := true, txRej := true }) =
    some { State.reset with ill := true } := by decide
/-- C6v. -/
theorem test_illegal_mask : stateOf (step (offered { State.reset with ill := true, txOvf := true } 0x3002)) =
    some { State.reset with ill := true, txOvf := true } := by decide
/-- S24. -/
theorem test_rxPush_held : stateOf (step (offered fullQueue 0x10AA)) = some { fullQueue with cmds := [0x10AA] } := by
  decide

/-! ## Functions of the normative core, status, assembler -/

/-- K14. -/
theorem test_crc_check_value : crc16usb [0x31, 0x32, 0x33, 0x34, 0x35, 0x36, 0x37, 0x38, 0x39] = 0xB4C8 := by decide +kernel
/-- K12, in the form of R103. -/
theorem test_crc_unreflected : crc16usbUnreflected [0x00, 0x04, 0xDE, 0xAD, 0xBE, 0xEF] = 0xC195 := by decide +kernel
/-- T1d: the length test comes first. -/
theorem test_tryDecode_short : tryDecode [0x01, 0x02, 0x03, 0x04, 0x05] = .incomplete := by decide +kernel
/-- T12d. -/
theorem test_tryDecode_shortened_length : tryDecode [0xAA, 0xAA, 0x00, 0x02, 0xAA, 0xBB, 0xC8, 0xFD, 0x88] =
    .invalid 2 [0xAA, 0xBB] 0xC8FD 0xC860 := by decide +kernel
/-- S11: a false marker swallows the head of a frame. -/
theorem test_false_marker :
    (pushAll [0xAA, 0xAA, 0x00, 0x00, 0xAA, 0xAA, 0x00, 0x03, 0xAA, 0xBB, 0xC8, 0xFD, 0x88] State.reset).map
      (fun t => (t.rxb, t.resyncCount, t.evq.map (·.kind))) = some ([0xAA, 0xBB, 0xC8, 0xFD, 0x88], 2, [.invalid]) := by
  decide +kernel
/-- C19v. -/
theorem test_status_full_queue : regValue 0x00 fullQueue = 0x18 := by decide
/-- R93, R94. -/
theorem test_assemble : assemble ["start: CRC_OF 31 ; one byte", "CLR_STATUS 5"] = some [0x0100, 0x0231, 0x3005] := by
  decide +kernel
theorem test_assemble_refuses_large_byte : assembleLine "TX_PUSH 256" = none := by decide +kernel

/-! ## Witnesses: each hypothesis of a statement is met by some state and operands -/

/-- n bytes of payload. -/
def payload (n : Nat) : List Byte := List.replicate n 0x00

@[simp] theorem payload_length (n : Nat) : (payload n).length = n := List.length_replicate

/-- A commit of n bytes at TXQ_CAP = 65541 with one byte in TXQ. -/
def commitBehindOneByte (n : Nat) : State :=
  { offered State.reset 0x2100 with txb := payload n, txq := [0xAA] }

theorem commitBehindOneByte_held (n : Nat) (hn : n ≤ 65535) (hr : 65540 < 6 + n) :
    held .txCommit (commitBehindOneByte n) = true :=
  (txCommitHeld_iff _).2 ⟨rfl, by simpa [commitBehindOneByte] using hn, by
    simpa [commitBehindOneByte, offered, State.reset, State.resetWith, Config.standard] using hr⟩

/-- The state whose next turns are ts. -/
def withTurns (ts : List Turn) (s : State) : State := { s with turns := ts }

theorem witness_DecodeFollowsOpcodeMap :
    (Instr.clrStatus 0).row ∈ opcodeTable ∧ (Instr.clrStatus 0).row.meets 0x3005 = true := by decide
theorem witness_LegalWordsAreCounted : decode 0x3005 = .ok (.clrStatus 0x05) ∧ (Instr.clrStatus 0x05).row.pattern = 0x3000 := by
  decide
theorem witness_IllegalWordsByCase : (offered State.reset 0x30FA).turns = .command :: [] ∧
    (offered State.reset 0x30FA).cmds = 0x30FA :: [] ∧ decode 0x30FA = .error (.reservedMaskBit 0xFA) := by decide
theorem witness_DecodeOfEncode : (Instr.clrStatus 0x05).wellFormed = true := by decide
theorem witness_EncodeOfDecode : decode 0x2100 = .ok .txCommit := by decide
theorem witness_StepRunsOfferedCommand_runs : (offered State.reset 0x10AA).turns = .command :: [] ∧
    (offered State.reset 0x10AA).cmds = 0x10AA :: [] ∧ decode 0x10AA = .ok (.rxPush 0xAA) ∧
    held (.rxPush 0xAA) (offered State.reset 0x10AA) = false := by decide
theorem witness_StepRunsOfferedCommand_waits : decode 0x10AA = .ok (.rxPush 0xAA) ∧
    held (.rxPush 0xAA) (offered fullQueue 0x10AA) = true := by decide
theorem witness_StepRunsOfferedCommand_commit_waits : held .txCommit (commitBehindOneByte 65535) = true :=
  commitBehindOneByte_held 65535 (by decide) (by decide)
theorem witness_DisabledTurnChangesNothing : (withTurns [.evtPop] State.reset).turns = .evtPop :: [] ∧
    enabled .evtPop (withTurns [.evtPop] State.reset) = false ∧ enabled .evtPop (withTurns [.evtPop] fullQueue) = true ∧
    enabled .command (offered fullQueue 0x10AA) = false ∧ enabled .command (offered fullQueue 0xFFFF) = true ∧
    State.reset.turns = [] := by decide
theorem witness_RegisterReadReturnsValue : (withTurns [.regRead 0x02] fullQueue).turns = .regRead 0x02 :: [] ∧
    0x0A ≤ (0x0A : Byte).toNat ∧ 0x0A ≤ (0xFF : Byte).toNat := by decide
theorem legal_smallest : Config.Legal { evqCap := 1, txqCap := 65541 } := ⟨by decide, by decide, by decide, by decide⟩
theorem legal_standard : Config.Legal Config.standard := ⟨by decide, by decide, by decide, by decide⟩
theorem witness_EventPopTakesOldest : (withTurns [.evtPop] State.reset).evq = [] ∧
    (withTurns [.evtPop] fullQueue).turns = .evtPop :: [] ∧ (withTurns [.evtPop] fullQueue).evq = eventOfF1 :: [] ∧
    (withTurns [.evtPop] fullQueue).config.Legal ∧ held (.rxPush 0xAA) (withTurns [.evtPop] fullQueue) = true :=
  ⟨rfl, rfl, rfl, legal_smallest, by decide⟩
theorem witness_TxPopTakesHead : ∃ s : State, s.turns = List.replicate 6 .txPop ++ [] ∧ s.turns = .txPop :: List.replicate 5 .txPop ∧
    s.txq = [0xAA, 0xAA, 0x00, 0x00, 0x4F, 0xFE] ∧ (withTurns s.turns State.reset).txq = [] :=
  ⟨{ State.reset with turns := List.replicate 6 .txPop, txq := [0xAA, 0xAA, 0x00, 0x00, 0x4F, 0xFE] }, by decide⟩
theorem witness_ResetGivesResetValues : ∃ t, (withTurns [.reset false] fullQueue).turns = .reset false :: [] ∧
    (withTurns [.reset false] fullQueue).config.Legal ∧ step (withTurns [.reset false] fullQueue) = .next t :=
  ⟨_, rfl, legal_smallest, rfl⟩
theorem witness_ResetLeavesAgents : (withTurns [.reset true] fullQueue).turns = .reset true :: [] := rfl
theorem witness_NopChangesNothing : (0x01 : Byte) ≠ 0 ∧ (0xFF : Byte) ≠ 0 := by decide
theorem witness_CrcInitSetsInitialValue : (offered State.reset (commandWord 0x01 0xFF)).turns = .command :: [] ∧
    (offered State.reset (commandWord 0x01 0xFF)).cmds = commandWord 0x01 0xFF :: [] ∧ (0xFF : Byte) ≠ 0 := by decide
theorem witness_RxPushAppendsAndRunsLoop_full : fullQueue.evq.length = fullQueue.config.evqCap := by decide
theorem witness_RxPushAppendsAndRunsLoop_quiescent : quiescent State.reset.rxb = true ∧
    State.reset.evq.length < State.reset.config.evqCap := by decide
theorem witness_RxPushAppendsAndRunsLoop_noise : ∃ s : State, s.evq.length ≠ s.config.evqCap ∧ s.rxb.length = 5 ∧
    markerAtHead s.rxb = false := ⟨{ State.reset with rxb := [0x01, 0x02, 0x03, 0x04, 0x05] }, by decide⟩
theorem witness_RxPushAppendsAndRunsLoop_example : ∃ s : State,
    s.rxb = [0xAA, 0xAA, 0x00, 0x03, 0xAA, 0xBB, 0xC8, 0xFD] ∧ s.evq = [] ∧ s.config.Legal :=
  ⟨{ fullQueue with evq := [], rxb := [0xAA, 0xAA, 0x00, 0x03, 0xAA, 0xBB, 0xC8, 0xFD] }, rfl, rfl, legal_smallest⟩
theorem witness_RxPushHoldsWhileEventQueueFull : ∃ s : State, s.turns = [.command, .evtPop, .command] ++ [] ∧
    s.cmds = encode (.rxPush 0xAA) :: [] ∧ s.evq = eventOfF1 :: [] ∧ s.evq.length = s.config.evqCap :=
  ⟨{ fullQueue with cmds := [0x10AA], turns := [.command, .evtPop, .command] }, by decide⟩
theorem witness_RxPushHoldsWhileEventQueueFull_room : State.reset.evq.length ≠ State.reset.config.evqCap := by decide
theorem witness_TxPushAppendsOrOverflows_drops : ∃ s : State, s.txOvf = true := ⟨{ State.reset with txOvf := true }, rfl⟩
theorem witness_TxPushAppendsOrOverflows_overflows : ∃ s : State, s.txOvf = false ∧ s.txb.length = 65535 :=
  ⟨{ State.reset with txb := payload 65535 }, rfl, payload_length 65535⟩
theorem witness_TxPushAppendsOrOverflows_appends : ∃ s : State, s.txOvf = false ∧ s.txb.length ≠ 65535 ∧ s.txb.length = 65534 :=
  ⟨{ State.reset with txb := payload 65534 }, rfl, by simp, by simp⟩
theorem witness_TxPushAppendsOrOverflows_example : State.reset.txb = [] ∧ State.reset.txOvf = false := by decide
theorem witness_TxCommitQueuesFrameOrRejects_waits : ∃ s : State, s.txOvf = false ∧ s.txb.length ≤ 65535 ∧
    s.config.txqCap - s.txq.length < 6 + s.txb.length ∧ s.config.txqCap - s.txq.length + 1 = 6 + s.txb.length :=
  ⟨{ State.reset with txb := payload 65535, txq := [0xAA] }, rfl, by
    simp [ State.reset, State.resetWith, Config.standard]⟩
theorem witness_TxCommitQueuesFrameOrRejects_queues : ∃ s : State, s.txOvf = false ∧ s.txb.length ≤ 65535 ∧
    6 + s.txb.length ≤ s.config.txqCap - s.txq.length ∧ 6 + s.txb.length = s.config.txqCap - s.txq.length :=
  ⟨{ State.reset with txb := payload 65535 }, rfl, by
    simp [State.reset, State.resetWith, Config.standard]⟩
theorem witness_TxCommitQueuesFrameOrRejects_empty : ∃ s : State, s.config.Legal ∧ s.txb.length ≤ 65535 ∧ s.txq = [] :=
  ⟨{ fullQueue with txb := payload 65535 }, legal_smallest, by simp, rfl⟩
theorem witness_TxCommitQueuesFrameOrRejects_released : ∃ s : State, s.config.Legal ∧ s.txb.length ≤ 65535 ∧
    held .txCommit s = true ∧ s.turns = List.replicate s.txq.length .txPop ++ [.command] := by
  obtain ⟨n, hn⟩ : ∃ n, n = 65535 := ⟨_, rfl⟩
  refine ⟨{ commitBehindOneByte n with turns := [.txPop, .command] }, legal_standard, ?_,
    commitBehindOneByte_held n (by omega) (by omega), rfl⟩
  simp [commitBehindOneByte, hn]
theorem witness_TxCommitStopsWhereEncodeNotDefined : ∃ s : State, s.txOvf = false ∧ 65535 < s.txb.length ∧
    s.txb.length = 65536 :=
  ⟨{ State.reset with txb := payload 65536 }, rfl, by simp, by simp⟩
theorem witness_TxAbortDiscardsPayload : ∃ s : State, s.txb = [0x01, 0x02] := ⟨{ State.reset with txb := [0x01, 0x02] }, rfl⟩
theorem witness_ClrStatusClearsStickyFlags : (offered State.reset (commandWord 0x30 0x02)).turns = .command :: [] ∧
    (offered State.reset (commandWord 0x30 0x02)).cmds = commandWord 0x30 0x02 :: [] ∧ (0x02 : Byte) &&& 0xFA ≠ 0 := by decide
theorem witness_ClrStatusClearsStickyFlags_example : ∃ s : State, s.ill = true ∧ s.txRej = true :=
  ⟨{ State.reset with ill := true, txRej := true }, rfl, rfl⟩
theorem witness_IllegalWordSetsIllOnly : (offered fullQueue 0x4000).turns = .command :: [] ∧
    (offered fullQueue 0x4000).cmds = 0x4000 :: [] ∧ decode 0x4000 = .error (.unlistedOpcode 0x40) := by decide
theorem witness_IllegalWordSetsIllOnly_example : ∃ s : State, s.evq = [] ∧ s.config.Legal ∧ s.txq = [] ∧ rxCand s = false ∧
    s.txOvf = false ∧ s.txRej = false :=
  ⟨{ fullQueue with evq := [] }, rfl, legal_smallest, rfl, by decide, rfl, rfl⟩
theorem witness_CrcCheckValues : (withTurns [.reset true] State.reset).turns = .reset true :: [] := rfl
theorem witness_CrcResultIsChecksumOfUpdates : ∃ t, (offered State.reset 0x0231).crcState = crcRun 0xFFFF [] ∧
    step (offered State.reset 0x0231) = .next t := ⟨_, rfl, rfl⟩
theorem witness_CrcuIsIndependent : Instr.txCommit ≠ .crcInit ∧ ∀ b, Instr.txCommit ≠ .crcUpdate b := by
  constructor
  · decide
  · intro b h
    cases h
theorem witness_FrameHasWireFormat : (payload 65535).length ≤ 65535 := by simp
theorem witness_SendQueuesFrameOrIsRefused_queues : ∃ (s : State) (P : List Byte), P.length ≤ 65535 ∧ s.txb = [] ∧
    s.txOvf = false ∧ 6 + P.length ≤ s.config.txqCap - s.txq.length :=
  ⟨State.reset, (payload 65535), by simp [State.reset, State.resetWith, Config.standard]⟩
theorem witness_SendQueuesFrameOrIsRefused_refuses : ∃ (s : State) (P : List Byte), 65535 < P.length ∧ s.txb = [] ∧
    s.txOvf = false := ⟨State.reset, payload 65536, by simp, rfl, rfl⟩
theorem witness_EncoderFailsClosed : ∃ t, PayloadTracked [] (offered State.reset 0x2100) ∧
    step (offered State.reset 0x2100) = .next t ∧ performed (offered State.reset 0x2100) = some (.exec .txCommit) :=
  ⟨_, .inl ⟨by decide, rfl, rfl⟩, rfl, by decide⟩
theorem witness_DecodeIsPrefixStable : tryDecode [0x01, 0x02, 0x03, 0x04, 0x05, 0x06] ≠ .incomplete ∧
    tryDecode ([0xAA] ++ [0xAA, 0x00, 0x01]) = .incomplete := by decide +kernel
theorem witness_OutcomeConsumesItsBytes :
    tryDecode [0xAA] = .incomplete ∧ tryDecode [0xAA, 0x01, 0x00, 0x00, 0x00, 0x00] = .notAligned ∧
    tryDecode [0xAA, 0xAA, 0x00, 0x00, 0x4F, 0xFE] = .valid 0 [] 0x4FFE ∧
    tryDecode [0xAA, 0xAA, 0x00, 0x00, 0x00, 0x00] = .invalid 0 [] 0x0000 0x4FFE := by decide +kernel
/-- The branches at their boundaries: 5 bytes, a flipped marker byte, one byte short, and two whole candidates. -/
theorem witness_ValidExactlyWhenChecksumMatches : [0xAA, 0xAA, 0x00, 0x00, (0x4F : Byte)].length < 6 ∧
    byteAt [0xAA, 0xAB, 0x00, 0x00, 0x4F, 0xFE] 1 ≠ 0xAA ∧
    [0xAA, 0xAA, 0x00, 0x01, 0x4F, (0xFE : Byte)].length + 1 = 6 + (beWord 0x00 0x01).toNat ∧
    [0xAA, 0xAA, 0x00, 0x00, 0x4F, (0xFE : Byte)].length = 6 + (beWord 0x00 0x00).toNat ∧
    beWord 0x4F 0xFE = crc16usb (slice [0xAA, 0xAA, 0x00, 0x00, 0x4F, 0xFE] 2 4) ∧
    beWord 0x4F 0xFF ≠ crc16usb (slice [0xAA, 0xAA, 0x00, 0x00, 0x4F, 0xFF] 2 4) := by
  decide +kernel
theorem witness_ValidExactlyWhenChecksumMatches_frame : (payload 65535).length ≤ 65535 := by simp
theorem witness_SingleBitErrorGivesInvalid : ∃ (P : List Byte) (k j : Nat), P.length ≤ 65535 ∧ 4 ≤ k ∧ k < 6 + P.length ∧ j < 8 :=
  ⟨[], 5, 7, by decide⟩
theorem witness_MarkerFlipGivesNotAligned : 6 ≤ (frameOf []).length ∧ markerAtHead (frameOf []) = true ∧ 1 < 2 ∧ 7 < 8 := by
  decide +kernel
theorem witness_LoopEndsQuiescent : quiescent [0xAA, 0xAA, 0x00] = true ∧
    quiescent [0x01, 0x02, 0x03, 0x04, 0x05, 0x06] = false ∧ [0xAA, 0xAA, 0x00].length < 6 := by decide +kernel
theorem witness_ResyncCounterSaturates : (0xFFFFFFFE : RegVal).toNat < 0xFFFFFFFF ∧
    tryDecode [0xAA, 0x01, 0x00, 0x00, 0x00, 0x00] = .notAligned := by decide +kernel
/-- A push that discards a byte with the counter at its top (vector S22). -/
theorem witness_ResyncCounterSaturates_step : ∃ s t : State, step s = .next t ∧
    performed s = some (.exec (.rxPush 0x07)) ∧ s.resyncCount = 0xFFFFFFFF ∧ 0 < s.resyncCount.toNat ∧
    ∀ r, performed s ≠ some (.reset r) :=
  ⟨{ offered State.reset 0x1007 with rxb := [0x02, 0x03, 0x04, 0x05, 0x06], resyncCount := 0xFFFFFFFF }, _, rfl,
    by decide, rfl, by decide, by decide⟩
/-- The three cases of R167, each with the byte that makes its clause's outcome. -/
theorem witness_PushTakesAtMostOneStep : State.reset.evq.length ≠ State.reset.config.evqCap ∧
    (quiescent [0x01, 0x02, 0x03, 0x04, 0x05] = true ∧ markerAtHead ([0x01, 0x02, 0x03, 0x04, 0x05] ++ [0x06]) = false) ∧
    (quiescent [0xAA, 0xAA, 0x00, 0x00, 0x4F] = true ∧
      (declaredLength ([0xAA, 0xAA, 0x00, 0x00, 0x4F] ++ [0xFE])).toNat = 0) ∧
    (quiescent [0xAA, 0xAA, 0x00, 0x01, 0x4F] = true ∧
      0 < (declaredLength ([0xAA, 0xAA, 0x00, 0x01, 0x4F] ++ [0xFE])).toNat) ∧
    (quiescent [0xAA, 0xAA, 0x00, 0x02, 0xAA, 0xAA] = true ∧ 6 + 1 < 6 + (declaredLength [0xAA, 0xAA, 0x00, 0x02, 0xAA, 0xAA]).toNat) ∧
    (quiescent [0xAA, 0xAA, 0x00, 0x02, 0xAA, 0xAA, 0xC4] = true ∧
      7 + 1 = 6 + (declaredLength [0xAA, 0xAA, 0x00, 0x02, 0xAA, 0xAA, 0xC4]).toNat) := by decide +kernel
theorem witness_ChunkingDoesNotMatter : quiescent State.reset.rxb = true ∧
    (pushAll [[0xAA, 0xAA], [0x00, 0x00, 0x4F, 0xFE]].flatten State.reset).isSome = true := by decide +kernel
theorem witness_QuiescentBufferIsBounded : quiescent [0xAA, 0xAA, 0x00, 0x01, 0x55, 0x66] = true := by decide +kernel
theorem witness_EncodedFrameRoundTrips : (payload 65535).length ≤ 65535 ∧ State.reset.rxb = [] ∧
    State.reset.evq.length ≠ State.reset.config.evqCap := by
  refine ⟨by simp, rfl, by decide⟩
theorem witness_EncodedFrameRoundTrips_held : ∃ s : State, s.rxb ++ [0xFE] = frameOf [] ∧
    s.turns = [.command, .evtPop, .command] ++ [] ∧ s.cmds = encode (.rxPush 0xFE) :: [] ∧ s.evq = eventOfF1 :: [] ∧
    s.evq.length = s.config.evqCap :=
  ⟨{ fullQueue with
      rxb := [0xAA, 0xAA, 0x00, 0x00, 0x4F], cmds := [0x10FE], turns := [.command, .evtPop, .command] }, by decide +kernel⟩
theorem witness_PartialDeliveryEmitsAtLastByte : State.reset.rxb = [] ∧
    State.reset.evq.length ≠ State.reset.config.evqCap ∧ 5 < 6 + ([] : List Byte).length := by decide
theorem witness_TwoFramesGiveTwoEvents : (pushAll (frameOf [] ++ frameOf [0xAA]) State.reset).isSome = true := by
  decide +kernel
theorem witness_ResyncAfterNoise : State.reset.resyncCount.toNat + [0x01, 0x02].length < 2 ^ 32 ∧
    (pushAll ([0x01, 0x02] ++ frameOf []) State.reset).isSome = true := by decide +kernel
theorem witness_ResyncAfterNoise_falseMarker : 0 < [(0xAA : Byte)].length ∧ markerAt ([0xAA] ++ frameOf []) 0 ∧
    ∀ j, j < 0 → ¬markerAt ([0xAA] ++ frameOf []) j :=
  ⟨by decide, ⟨by decide, by decide⟩, fun j h => absurd h (Nat.not_lt_zero j)⟩
theorem witness_FeedRunsAsPushes : (pushAll [0x01, 0x02] State.reset).isSome = true := by decide +kernel
theorem witness_StatusBitsSetAndCleared : ∃ t, step (offered State.reset 0xFFFF) = .next t ∧
    performed (offered State.reset 0xFFFF) = some (.illegal 0xFFFF) := ⟨_, rfl, by decide⟩
theorem invariants_reset : Invariants State.reset :=
  { legal := ⟨by decide, by decide, by decide, by decide⟩
    rxb_length := by decide
    rxb_quiescent := by decide +kernel
    txb_length := by decide
    ovf_full := by decide
    evq_length := by decide
    txq_length := by decide
    events := by simp [State.reset, State.resetWith]
    frames := ⟨[], [], [], rfl, List.nil_suffix, by decide, by simp⟩ }
theorem witness_RegisterMapReads : Invariants State.reset ∧ Config.Legal { evqCap := 1, txqCap := 65541 } :=
  ⟨invariants_reset, legal_smallest⟩
theorem witness_EachElementHasItsWriters : ∃ t, step (offered State.reset 0x1100) = .next t ∧
    ∀ r, performed (offered State.reset 0x1100) ≠ some (.reset r) := ⟨_, rfl, by decide⟩
theorem witness_IdempotentCommands : ∃ s : State, s.txOvf = false ∧ s.txb.length < 65534 ∧
    12 + s.txb.length ≤ s.config.txqCap - s.txq.length := ⟨State.reset, by decide⟩
theorem witness_IdempotentCommands_push : ∃ s : State, s.rxb.length ≤ 3 ∧ s.rxb.length = 3 ∧
    s.evq.length ≠ s.config.evqCap := ⟨{ State.reset with rxb := [0xAA, 0xAA, 0x00] }, by decide⟩
theorem witness_ResetMeetsInvariants : Config.Legal { evqCap := 2 ^ 32 - 1, txqCap := 2 ^ 32 - 1 } :=
  ⟨by decide, by decide, by decide, by decide⟩
theorem invariants_offered : Invariants (offered State.reset 0x2100) :=
  let h := invariants_reset
  ⟨h.legal, h.rxb_length, h.rxb_quiescent, h.txb_length, h.ovf_full, h.evq_length, h.txq_length, h.events, h.frames⟩
theorem witness_StepKeepsInvariants : ∃ t, Invariants (offered State.reset 0x2100) ∧
    step (offered State.reset 0x2100) = .next t := ⟨_, invariants_offered, rfl⟩
theorem witness_NoRunStops : Config.Legal { evqCap := 1, txqCap := 65541 } := legal_smallest
theorem witness_EventsKeepTheirOrder : ∃ t, quiescent (withTurns [.evtPop] fullQueue).rxb = true ∧
    step (withTurns [.evtPop] fullQueue) = .next t ∧ ∀ r, performed (withTurns [.evtPop] fullQueue) ≠ some (.reset r) :=
  ⟨_, by decide +kernel, rfl, by decide⟩
theorem witness_SentBytesKeepTheirOrder : ∃ t, step (offered State.reset 0x2100) = .next t ∧
    ∀ r, performed (offered State.reset 0x2100) ≠ some (.reset r) := ⟨_, rfl, by decide⟩
theorem witness_HeldCommandBlocksPort_push : (offered fullQueue 0x10AA).cmds = 0x10AA :: [] ∧
    decode 0x10AA = .ok (.rxPush 0xAA) ∧ held (.rxPush 0xAA) (offered fullQueue 0x10AA) = true ∧
    Turn.evtPop ∉ (offered fullQueue 0x10AA).turns ∧ ∀ r, Turn.reset r ∉ (offered fullQueue 0x10AA).turns := by decide
theorem witness_HeldCommandBlocksPort_commit : (commitBehindOneByte 65535).cmds = 0x2100 :: [] ∧ decode 0x2100 = .ok .txCommit ∧
    held .txCommit (commitBehindOneByte 65535) = true ∧ Turn.txPop ∉ (commitBehindOneByte 65535).turns ∧
    ∀ r, Turn.reset r ∉ (commitBehindOneByte 65535).turns :=
  ⟨rfl, by decide, commitBehindOneByte_held 65535 (by decide) (by decide), by decide, by decide⟩
theorem witness_PopsReleaseHeldCommit : ∃ (s : State) (k : Nat), s.txOvf = false ∧ s.txb.length ≤ 65535 ∧
    s.cmds = encode .txCommit :: [] ∧ k ≤ s.txq.length ∧ 6 + s.txb.length ≤ s.config.txqCap - (s.txq.length - k) ∧
    s.turns = List.replicate k .txPop ++ [.command] ++ [] :=
  ⟨{ State.reset with
      txb := payload 65535, txq := [0xAA], cmds := [0x2100], turns := [.txPop, .command] }, 1, rfl, by
    simp, rfl, by decide, by
    simp [State.reset, State.resetWith, Config.standard], rfl⟩

end Sys2Proof.Tests
end

section
/-! PROOFS. What a decode step does, by the outcome at the head of RXB (10_state.md R28; 42_decoder.md R142; 43_synchronizer.md
R160, R173), and what one accepted byte does to a quiescent RXB (R161, R167, R169). -/

namespace Sys2Proof.Machine

/-- A complete outcome is the checksum validator's answer on the candidate at the head, whose bytes are all there. -/
theorem tryDecode_complete {B : List Byte} {o : DecodeOutcome} (h : tryDecode B = o) (hi : o ≠ .incomplete)
    (hn : o ≠ .notAligned) : 6 + (declaredLength B).toNat ≤ B.length ∧ checkCandidate B (declaredLength B) = o := by
  rcases tryDecode_cases B with ⟨-, h'⟩ | ⟨-, -, h'⟩ | ⟨-, -, -, h'⟩ | ⟨-, hlen, h'⟩
  · exact absurd (h.symm.trans h') hi
  · exact absurd (h.symm.trans h') hn
  · exact absurd (h.symm.trans h') hi
  · exact ⟨hlen, h'.symm.trans h⟩

/-- Every field of a Valid outcome. -/
theorem tryDecode_valid {B P : List Byte} {L D : Word} (h : tryDecode B = .valid L P D) :
    6 + L.toNat ≤ B.length ∧ L = declaredLength B ∧ P = slice B 4 (4 + L.toNat) ∧ P.length = L.toNat ∧
      D = beWord (byteAt B (4 + L.toNat)) (byteAt B (5 + L.toNat)) ∧ D = crc16usb (slice B 2 (4 + L.toNat)) := by
  obtain ⟨hlen, hc⟩ := tryDecode_complete h (by simp) (by simp)
  rcases checkCandidate_cases B (declaredLength B) with ⟨P', D', h', hP, hD, hK⟩ | ⟨_, _, _, h', -⟩
  · rw [h'] at hc
    cases hc
    exact ⟨hlen, rfl, hP, by rw [hP, slice_length _ _ _ (by omega)]; omega, hD, hK⟩
  · rw [h'] at hc
    cases hc

/-- Every field of an Invalid outcome. -/
theorem tryDecode_invalid {B P : List Byte} {L D K : Word} (h : tryDecode B = .invalid L P D K) :
    6 + L.toNat ≤ B.length ∧ L = declaredLength B ∧ P = slice B 4 (4 + L.toNat) ∧ P.length = L.toNat ∧
      D = beWord (byteAt B (4 + L.toNat)) (byteAt B (5 + L.toNat)) ∧ K = crc16usb (slice B 2 (4 + L.toNat)) ∧ D ≠ K := by
  obtain ⟨hlen, hc⟩ := tryDecode_complete h (by simp) (by simp)
  rcases checkCandidate_cases B (declaredLength B) with ⟨_, _, h', -⟩ | ⟨P', D', K', h', hP, hD, hK, hne⟩
  · rw [h'] at hc
    cases hc
  · rw [h'] at hc
    cases hc
    exact ⟨hlen, rfl, hP, by rw [hP, slice_length _ _ _ (by omega)]; omega, hD, hK, hne⟩

theorem tryDecode_notAligned_iff (B : List Byte) :
    tryDecode B = .notAligned ↔ 6 ≤ B.length ∧ markerAtHead B = false := by
  refine ⟨fun h => ?_, fun ⟨h6, hm⟩ => tryDecode_notAligned h6 hm⟩
  rcases tryDecode_cases B with ⟨-, h'⟩ | ⟨h6, hm, -⟩ | ⟨-, -, -, h'⟩ | ⟨-, -, h'⟩
  · simp [h] at h'
  · exact ⟨h6, hm⟩
  · simp [h] at h'
  · rcases checkCandidate_cases B (declaredLength B) with ⟨_, _, hc, -⟩ | ⟨_, _, _, hc, -⟩ <;> simp [h, hc] at h'

/-- Settles O35: the decode step and the decoder, each by its outcome. -/
theorem outcomeConsumesItsBytes : Obligations.OutcomeConsumesItsBytes := by
  intro s
  refine ⟨fun h => by simp [syncStep, h], fun h => ⟨?_, ?_⟩, fun L P D h => ?_, fun L P D K h => ?_⟩
  · obtain ⟨h6, -⟩ := (tryDecode_notAligned_iff _).1 h
    exact List.ne_nil_of_length_pos (by omega)
  · simp [syncStep, h, dropRx]
  · obtain ⟨hlen, hL, hP, hPl, hD, hK⟩ := tryDecode_valid h
    exact ⟨hlen, hL, hP, hPl, hD, hK, by simp [syncStep, h, dropRx, emit, validEvent]⟩
  · obtain ⟨hlen, hL, hP, hPl, hD, hK, hne⟩ := tryDecode_invalid h
    exact ⟨hlen, hL, hP, hPl, hD, hK, hne, by simp [syncStep, h, dropRx, emit, invalidEvent]⟩

/-- A quiescent buffer is short of a frame header and trailer, or waits for the rest of a candidate (R169). -/
theorem quiescent_cases {B : List Byte} (hq : quiescent B = true) :
    B.length < 6 ∨ 6 ≤ B.length ∧ markerAtHead B = true ∧ B.length < 6 + (declaredLength B).toNat := by
  rw [quiescent_iff] at hq
  rcases tryDecode_cases B with ⟨h, -⟩ | ⟨-, -, h⟩ | ⟨h6, hm, hl, -⟩ | ⟨-, -, h⟩
  · exact .inl h
  · simp [hq] at h
  · exact .inr ⟨h6, hm, hl⟩
  · rcases checkCandidate_cases B (declaredLength B) with ⟨_, _, hc, -⟩ | ⟨_, _, _, hc, -⟩ <;> simp [hq, hc] at h

theorem quiescent_of_short {B : List Byte} (h : B.length < 6) : quiescent B = true :=
  (quiescent_iff B).2 (tryDecode_short h)

theorem quiescent_drop_of_length_le {B : List Byte} {n : Nat} (h : B.length ≤ n) : quiescent (B.drop n) = true :=
  quiescent_of_short (by simp [List.drop_eq_nil_of_le h])

theorem quiescent_length_le {B : List Byte} (hq : quiescent B = true) : B.length ≤ 65540 := by
  have := declaredLength_le B
  rcases quiescent_cases hq with h | ⟨-, -, h⟩ <;> omega

/-- A candidate that one byte completes on a quiescent buffer is the whole buffer. -/
theorem length_append_le_of_quiescent {B : List Byte} {b : Byte} (hq : quiescent B = true) :
    (B ++ [b]).length ≤ 6 + (declaredLength (B ++ [b])).toNat := by
  rcases quiescent_cases hq with h | ⟨h6, -, h⟩
  · simp
    omega
  · rw [declaredLength_append _ _ (by omega)]
    simp
    omega

/-- One byte on a quiescent buffer makes room for at most one decode step: after it the buffer is quiescent again (R167). -/
theorem syncStep_append_quiescent {s : State} {b : Byte} (hq : quiescent s.rxb = true) :
    quiescent (syncStep { s with rxb := s.rxb ++ [b] }).rxb = true := by
  have hwhole := length_append_le_of_quiescent (b := b) hq
  rcases syncStep_cases { s with rxb := s.rxb ++ [b] } with ⟨h, he⟩ | ⟨h, he⟩ | ⟨L, P, D, h, he⟩ | ⟨L, P, D, K, h, he⟩ <;> rw [he]
  case inl => exact (quiescent_iff _).2 h
  case inr.inl =>
    obtain ⟨-, hm⟩ := (tryDecode_notAligned_iff _).1 h
    rcases quiescent_cases hq with hshort | ⟨h6, hm', -⟩
    · exact quiescent_of_short (by simpa using hshort)
    · simp [markerAtHead_append s.rxb [b] (by omega), hm'] at hm
  case inr.inr.inl =>
    obtain ⟨-, rfl, -⟩ := tryDecode_valid h
    exact quiescent_drop_of_length_le hwhole
  case inr.inr.inr =>
    obtain ⟨-, rfl, -⟩ := tryDecode_invalid h
    exact quiescent_drop_of_length_le hwhole

/-- An accepted byte joins a quiescent RXB, and the loop makes at most one decode step (R167). -/
theorem acceptByte_cases {s : State} (b : Byte) (hq : quiescent s.rxb = true) :
    (quiescent (s.rxb ++ [b]) = true ∧ acceptByte b s = { s with rxb := s.rxb ++ [b] }) ∨
    (quiescent (s.rxb ++ [b]) = false ∧ acceptByte b s = syncStep { s with rxb := s.rxb ++ [b] }) := by
  cases hb : quiescent (s.rxb ++ [b]) with
  | true => exact .inl ⟨rfl, acceptByte_of_quiescent hb⟩
  | false =>
    refine .inr ⟨rfl, ?_⟩
    rw [acceptByte, syncRun, List.length_append, List.length_singleton, syncLoop_step hb]
    exact syncLoop_stop (syncStep_append_quiescent hq)

theorem acceptByte_quiescent {s : State} (b : Byte) (hq : quiescent s.rxb = true) :
    quiescent (acceptByte b s).rxb = true := by
  rcases acceptByte_cases b hq with ⟨hb, he⟩ | ⟨-, he⟩ <;> rw [he]
  · exact hb
  · exact syncStep_append_quiescent hq

end Sys2Proof.Machine
end

section
/-! PROOFS. STATUS bit by bit and the register map (10_state.md R32, R33). -/

namespace Sys2Proof.Machine

theorem flagAt_getLsbD (b : Bool) {n : Nat} (hn : n < 32) (i : Nat) :
    (flagAt b n).getLsbD i = (b && decide (i = n)) := by
  cases b
  · simp [flagAt]
  · have hpow : flagAt true n = BitVec.twoPow 32 n := BitVec.twoPow_eq 32 n ▸ rfl
    simp [hpow, hn, eq_comm]

/-- STATUS, bit by bit. -/
theorem statusWord_getLsbD (s : State) (i : Nat) : (statusWord s).getLsbD i =
    match i with
    | 0 => s.ill
    | 1 => s.txOvf
    | 2 => s.txRej
    | 3 => evqFull s
    | 4 => evqNe s
    | 5 => rxCand s
    | 6 => txqNe s
    | _ => false := by
  match i with
  | 0 | 1 | 2 | 3 | 4 | 5 | 6 | n + 7 => simp [statusWord, flagAt_getLsbD, -BitVec.getLsbD_eq_getElem]

theorem statusWord_getLsbD_of_ge (s : State) {i : Nat} (hi : 7 ≤ i) : (statusWord s).getLsbD i = false := by
  obtain ⟨n, rfl⟩ := Nat.exists_eq_add_of_le' hi
  exact statusWord_getLsbD s (n + 7)

theorem zext32_getLsbD_of_ge (w : Word) {i : Nat} (hi : 16 ≤ i) : (zext32 w).getLsbD i = false := by
  rw [zext32, BitVec.getLsbD_setWidth, BitVec.getLsbD_of_ge _ _ hi, Bool.and_false]

/-- Every index past the last row of the map reads 0. -/
theorem regValue_unmapped (s : State) {idx : Byte} (h : 0x0A ≤ idx.toNat) : regValue idx s = 0 := by
  have hne : ∀ k : Byte, k.toNat < 0x0A → idx ≠ k := by
    rintro k hk rfl
    omega
  simp [regValue, hne]

theorem evqNe_iff (s : State) : evqNe s = true ↔ 0 < s.evq.length := by simp [evqNe]

theorem txqNe_iff (s : State) : txqNe s = true ↔ 0 < s.txq.length := by simp [txqNe]

/-- The candidate bit: RXB begins with the two marker bytes. -/
theorem rxCand_iff (s : State) : rxCand s = true ↔ ∃ rest, s.rxb = 0xAA :: 0xAA :: rest := by
  unfold rxCand
  match s.rxb with
  | [] => simp
  | [a] => simp
  | a :: b :: rest => simp [byteAt, Config.marker]

/-- No bit of STATUS is set right after reset: EVQ is empty, and a legal EVQ_CAP is not 0. -/
theorem statusWord_resetWith {c : Config} (hc : c.Legal) : statusWord (State.resetWith c) = 0 := by
  have hfull : evqFull (State.resetWith c) = false := by
    have := hc.evq_pos
    simp [evqFull, State.resetWith]
    omega
  have hcand : rxCand (State.resetWith c) = false := rfl
  rw [statusWord, hfull, hcand]
  simp [State.resetWith, evqNe, txqNe, flagAt]

/-- A level register shows a length that fits its bits. -/
theorem levelValue_toNat {n len : Nat} (hn : n ≤ 32) (hlen : len < 2 ^ n) : (levelValue n len).toNat = len := by
  rw [levelValue, BitVec.toNat_setWidth, BitVec.toNat_ofNat, Nat.mod_eq_of_lt hlen]
  exact Nat.mod_eq_of_lt (hlen.trans_le (Nat.pow_le_pow_right (by decide) hn))

theorem levelValue_getLsbD_of_ge {n i : Nat} (len : Nat) (hi : n ≤ i) : (levelValue n len).getLsbD i = false := by
  rw [levelValue, BitVec.getLsbD_setWidth, BitVec.getLsbD_of_ge _ _ hi, Bool.and_false]

/-! The level and capacity registers, each while its length fits the register. -/

section
variable {s : State}

theorem rxbLevel_read (h : s.rxb.length < 2 ^ 17) : (regValue 0x03 s).toNat = s.rxb.length :=
  levelValue_toNat (n := 17) (by decide) h

theorem txbLevel_read (h : s.txb.length < 2 ^ 16) : (regValue 0x05 s).toNat = s.txb.length :=
  levelValue_toNat (n := 16) (by decide) h

theorem evqLevel_read (h : s.evq.length < 2 ^ 32) : (regValue 0x06 s).toNat = s.evq.length :=
  levelValue_toNat (n := 32) (by decide) h

theorem txqLevel_read (h : s.txq.length < 2 ^ 32) : (regValue 0x07 s).toNat = s.txq.length :=
  levelValue_toNat (n := 32) (by decide) h

theorem evqCap_read (h : s.config.evqCap < 2 ^ 32) : (regValue 0x08 s).toNat = s.config.evqCap :=
  levelValue_toNat (n := 32) (by decide) h

theorem txqCap_read (h : s.config.txqCap < 2 ^ 32) : (regValue 0x09 s).toNat = s.config.txqCap :=
  levelValue_toNat (n := 32) (by decide) h

end

/-- After reset the registers of the checksum, of the count and of the levels read 0 (R241). -/
theorem regValue_resetWith_zero (c : Config) :
    ∀ idx ∈ ([0x02, 0x03, 0x04, 0x05, 0x06, 0x07] : List Byte), regValue idx (State.resetWith c) = 0 := by
  simp [regValue, State.resetWith, zext32, levelValue, Config.crcXorOut]

/-- Settles O50: each row of the map by the bound the invariants put on it. -/
theorem registerMapReads : Obligations.RegisterMapReads := by
  refine ⟨fun s hs => ?_, fun s idx hidx => ?_, fun s n => ⟨fun hn => ?_, fun hn => ?_, fun hn => ?_, fun hn => ?_, fun hn => ?_⟩,
    fun c hc => ?_, fun s idx => ⟨rfl, rfl, rfl, rfl, rfl, rfl, rfl, rfl, rfl, rfl⟩⟩
  · have hrxb := hs.rxb_length
    have htxb : s.txb.length ≤ 65535 := hs.txb_length
    have hevq := hs.evq_length
    have htxq := hs.txq_length
    have hevqCap := hs.legal.evq_lt
    have htxqCap := hs.legal.txq_lt
    refine ⟨rfl, rfl, rfl, ?_, rfl, ?_, ?_, ?_, ?_, ?_⟩
    · exact rxbLevel_read (by omega)
    · exact txbLevel_read (by omega)
    · exact evqLevel_read (by omega)
    · exact txqLevel_read (by omega)
    · exact evqCap_read (by omega)
    · exact txqCap_read (by omega)
  · exact regValue_unmapped s hidx
  · exact statusWord_getLsbD_of_ge s hn
  · exact zext32_getLsbD_of_ge _ hn
  · exact zext32_getLsbD_of_ge _ hn
  · exact levelValue_getLsbD_of_ge _ hn
  · exact levelValue_getLsbD_of_ge _ hn
  · have hevqCap := hc.evq_lt
    have htxqCap := hc.txq_lt
    exact ⟨statusWord_resetWith hc, rfl, regValue_resetWith_zero c, evqCap_read (Nat.lt_of_le_pred (by decide) hevqCap),
      txqCap_read (Nat.lt_of_le_pred (by decide) htxqCap)⟩

end Sys2Proof.Machine
end

section
/-! PROOFS. What each transaction can write (10_state.md R23 to R32, R243). -/

namespace Sys2Proof.Machine

section
variable (b : Byte) (s : State)

@[simp] theorem acceptByte_config : (acceptByte b s).config = s.config := by rw [acceptByte_frame]
@[simp] theorem acceptByte_crcState : (acceptByte b s).crcState = s.crcState := by rw [acceptByte_frame]
@[simp] theorem acceptByte_txb : (acceptByte b s).txb = s.txb := by rw [acceptByte_frame]
@[simp] theorem acceptByte_txq : (acceptByte b s).txq = s.txq := by rw [acceptByte_frame]
@[simp] theorem acceptByte_ill : (acceptByte b s).ill = s.ill := by rw [acceptByte_frame]
@[simp] theorem acceptByte_txOvf : (acceptByte b s).txOvf = s.txOvf := by rw [acceptByte_frame]
@[simp] theorem acceptByte_txRej : (acceptByte b s).txRej = s.txRej := by rw [acceptByte_frame]

end

/-- Which commands can change each element of the block. -/
theorem exec_writers {i : Instr} {s t : State} (h : exec i s = .next t) :
    (t.crcState ≠ s.crcState → i = .crcInit ∨ ∃ b, i = .crcUpdate b) ∧
    (t.rxb ≠ s.rxb → i = .rxClear ∨ ∃ b, i = .rxPush b) ∧
    (t.resyncCount ≠ s.resyncCount → ∃ b, i = .rxPush b) ∧
    (t.evq ≠ s.evq → ∃ b, i = .rxPush b) ∧
    (t.txb ≠ s.txb → i = .txCommit ∨ i = .txAbort ∨ ∃ b, i = .txPush b) ∧
    (t.txq ≠ s.txq → i = .txCommit) := by
  rcases exec_cases h with ⟨-, rfl⟩ | ⟨-, rfl⟩ | ⟨rfl, rfl⟩ | ⟨b, rfl, rfl⟩ | ⟨b, rfl, -, rfl⟩ | ⟨rfl, rfl⟩ | ⟨b, -, -, rfl⟩ |
    ⟨b, rfl, -, -, rfl⟩ | ⟨b, rfl, -, -, rfl⟩ | ⟨rfl, -, rfl⟩ | ⟨rfl, -, -, -, rfl⟩ | ⟨rfl, rfl⟩ | ⟨m, rfl, rfl⟩ <;> simp

/-- Settles O51: the commands by what each writes, and the other transactions by the one field they write. -/
theorem eachElementHasItsWriters : Obligations.EachElementHasItsWriters := by
  intro s t h
  rcases step_cases h with ⟨hp, rfl | ⟨_, _, -, rfl⟩⟩ | ⟨i, _, _, _, hp, -, -, -, -, he⟩ | ⟨_, _, _, hp, -, -, rfl⟩ |
    ⟨_, _, hp, -, rfl⟩ | ⟨_, _, _, hp, -, -, rfl⟩ | ⟨_, _, _, hp, -, -, rfl⟩ | ⟨r, _, hp, -, rfl⟩
  case inr.inl =>
    obtain ⟨hconfig, -⟩ := exec_frame he
    refine ⟨hconfig, fun _ => ?_⟩
    simpa [hp] using exec_writers he
  all_goals simp [hp]

/-- What a performed command leaves in each stored flag. -/
theorem exec_flags {i : Instr} {s t : State} (hh : held i s = false) (h : exec i s = .next t) :
    (t.ill = true ↔ s.ill = true ∧ ∀ m, i = .clrStatus m → m.getLsbD 0 = false) ∧
    (t.txOvf = true ↔ (∃ b, i = .txPush b ∧ s.txb.length = 65535) ∧ s.txOvf = false ∨
      s.txOvf = true ∧ i ≠ .txCommit ∧ i ≠ .txAbort) ∧
    (t.txRej = true ↔ i = .txCommit ∧ s.txOvf = true ∨
      s.txRej = true ∧ ∀ m, i = .clrStatus m → m.getLsbD 2 = false) := by
  rcases exec_cases h with ⟨hc, -⟩ | ⟨rfl, rfl⟩ | ⟨rfl, rfl⟩ | ⟨b, rfl, rfl⟩ | ⟨b, rfl, -, rfl⟩ | ⟨rfl, rfl⟩ |
    ⟨b, rfl, ho, rfl⟩ | ⟨b, rfl, ho, hl, rfl⟩ | ⟨b, rfl, ho, hl, rfl⟩ | ⟨rfl, ho, rfl⟩ | ⟨rfl, ho, -, -, rfl⟩ | ⟨rfl, rfl⟩ |
    ⟨m, rfl, rfl⟩
  case inl => simp [hh] at hc
  all_goals simp [*, maskBit]

/-- What a step leaves in each stored flag, by the transaction it performs. -/
theorem step_flags {s t : State} (h : step s = .next t) :
    (t.ill = true ↔ (∃ w, performed s = some (.illegal w)) ∨
      s.ill = true ∧ (∀ m, performed s = some (.exec (.clrStatus m)) → m.getLsbD 0 = false) ∧
        ∀ r, performed s ≠ some (.reset r)) ∧
    (t.txOvf = true ↔ (∃ b, performed s = some (.exec (.txPush b)) ∧ s.txb.length = 65535) ∧ s.txOvf = false ∨
      s.txOvf = true ∧ performed s ≠ some (.exec .txCommit) ∧ performed s ≠ some (.exec .txAbort) ∧
        ∀ r, performed s ≠ some (.reset r)) ∧
    (t.txRej = true ↔ performed s = some (.exec .txCommit) ∧ s.txOvf = true ∨
      s.txRej = true ∧ (∀ m, performed s = some (.exec (.clrStatus m)) → m.getLsbD 2 = false) ∧
        ∀ r, performed s ≠ some (.reset r)) := by
  rcases step_cases h with ⟨hp, rfl | ⟨_, _, -, rfl⟩⟩ | ⟨i, _, ws, ts, hp, -, -, -, hh, he⟩ | ⟨_, _, _, hp, -, -, rfl⟩ |
    ⟨_, _, hp, -, rfl⟩ | ⟨_, _, _, hp, -, -, rfl⟩ | ⟨_, _, _, hp, -, -, rfl⟩ | ⟨r, _, hp, -, rfl⟩
  case inr.inl =>
    have hheld := (held_congr (t := { s with turns := ts, cmds := ws }) i rfl rfl rfl rfl rfl).trans hh
    simpa [hp] using exec_flags hheld he
  all_goals simp [hp]

/-- Settles O49: the bits of STATUS, its reset value, and the flags after a step. -/
theorem statusBitsSetAndCleared : Obligations.StatusBitsSetAndCleared := by
  refine ⟨fun s => ?_, fun c hc => statusWord_resetWith hc, fun s t h => step_flags h⟩
  have hbit : ∀ n, (regValue 0x00 s).getLsbD n = _ := statusWord_getLsbD s
  exact ⟨hbit 0, hbit 1, hbit 2, hbit 3 ▸ evqFull_iff s, hbit 4 ▸ evqNe_iff s, hbit 5 ▸ rxCand_iff s, hbit 6 ▸ txqNe_iff s,
    fun n hn => statusWord_getLsbD_of_ge s hn⟩

end Sys2Proof.Machine
end


section
/-! PROOFS. The invariants of 10_state.md R38: at reset, after every step, in every run. -/

namespace Sys2Proof.Machine

/-! ### Bytes and events -/

theorem FramedBytes.nil : FramedBytes [] := ⟨[], [], [], rfl, List.nil_suffix, by decide, by simp⟩

/-- One more whole frame at the tail. -/
theorem FramedBytes.append_frame {q P : List Byte} (hq : FramedBytes q) (hP : P.length ≤ Config.maxPayload) :
    FramedBytes (q ++ frameOf P) := by
  obtain ⟨partHead, P₀, rest, rfl, hsuffix, hP₀, hrest⟩ := hq
  refine ⟨partHead, P₀, rest ++ [P], by simp, hsuffix, hP₀, fun p hp => ?_⟩
  rcases List.mem_append.1 hp with h | h
  · exact hrest p h
  · exact List.mem_singleton.1 h ▸ hP

/-- The head byte leaves: it is the next of the part frame or, after its last byte, the first of the next frame. -/
theorem FramedBytes.tail {b : Byte} {q : List Byte} (hq : FramedBytes (b :: q)) : FramedBytes q := by
  obtain ⟨partHead, P₀, rest, heq, hsuffix, hP₀, hrest⟩ := hq
  match partHead, rest with
  | c :: cs, rest =>
    obtain ⟨-, rfl⟩ := List.cons.inj heq
    exact ⟨cs, P₀, rest, rfl, (List.suffix_cons c cs).trans hsuffix, hP₀, hrest⟩
  | [], [] => simp at heq
  | [], P :: rest =>
    obtain ⟨c, cs, hF⟩ := List.exists_cons_of_ne_nil (frameOf_ne_nil P)
    simp only [List.nil_append, List.map_cons, List.flatten_cons, hF, List.cons_append] at heq
    obtain ⟨-, rfl⟩ := List.cons.inj heq
    exact ⟨cs, P, rest, rfl, hF ▸ List.suffix_cons c cs, hrest P (by simp), fun p hp => hrest p (by simp [hp])⟩

theorem validEvent_consistent {B P : List Byte} {L D : Word} (h : tryDecode B = .valid L P D) :
    (validEvent L P D).Consistent := by
  obtain ⟨-, -, -, hPl, -⟩ := tryDecode_valid h
  exact ⟨hPl, by simp [validEvent]⟩

theorem invalidEvent_consistent {B P : List Byte} {L D K : Word} (h : tryDecode B = .invalid L P D K) :
    (invalidEvent L P D K).Consistent := by
  obtain ⟨-, -, -, hPl, -, -, hne⟩ := tryDecode_invalid h
  exact ⟨hPl, by simp [invalidEvent, hne]⟩

/-- A decode step adds at most one event to EVQ, a consistent one. -/
theorem syncStep_evq (s : State) :
    (syncStep s).evq = s.evq ∨ ∃ e : Event, e.Consistent ∧ (syncStep s).evq = s.evq ++ [e] := by
  rcases syncStep_cases s with ⟨-, he⟩ | ⟨-, he⟩ | ⟨L, P, D, h, he⟩ | ⟨L, P, D, K, h, he⟩ <;> rw [he]
  · exact .inl rfl
  · exact .inl rfl
  · exact .inr ⟨_, validEvent_consistent h, rfl⟩
  · exact .inr ⟨_, invalidEvent_consistent h, rfl⟩

/-! ### What keeps the invariants -/

theorem invariants_resetWith {c : Config} (hc : c.Legal) : Invariants (State.resetWith c) where
  legal := hc
  rxb_length := by simp [State.resetWith]
  rxb_quiescent := quiescent_of_short (by simp [State.resetWith])
  txb_length := by simp [State.resetWith]
  ovf_full := by simp [State.resetWith]
  evq_length := by simp [State.resetWith]
  txq_length := by simp [State.resetWith]
  events := by simp [State.resetWith]
  frames := .nil

/-- Settles O53: the parameters of log 1 are legal. -/
theorem resetMeetsInvariants : Obligations.ResetMeetsInvariants :=
  ⟨fun _ => invariants_resetWith, invariants_resetWith ⟨by decide, by decide, by decide, by decide⟩⟩

namespace Invariants

variable {s t : State}

/-- The invariants read only the parameters, RXB, EVQ, TXB, TXQ and TX_OVF. -/
theorem congr (h : Invariants s) (hc : t.config = s.config) (hr : t.rxb = s.rxb) (he : t.evq = s.evq)
    (hb : t.txb = s.txb) (hq : t.txq = s.txq) (ho : t.txOvf = s.txOvf) : Invariants t where
  legal := hc ▸ h.legal
  rxb_length := hr ▸ h.rxb_length
  rxb_quiescent := hr ▸ h.rxb_quiescent
  txb_length := hb ▸ h.txb_length
  ovf_full := hb ▸ ho ▸ h.ovf_full
  evq_length := he ▸ hc ▸ h.evq_length
  txq_length := hq ▸ hc ▸ h.txq_length
  events := he ▸ h.events
  frames := hq ▸ h.frames

/-- SYNC's part: a quiescent RXB, and an EVQ of consistent events within its capacity. -/
theorem of_rx (h : Invariants s) (hq : quiescent t.rxb = true) (hl : t.evq.length ≤ s.config.evqCap)
    (he : ∀ e ∈ t.evq, e.Consistent) (hc : t.config = s.config) (hb : t.txb = s.txb) (hx : t.txq = s.txq)
    (ho : t.txOvf = s.txOvf) : Invariants t where
  legal := hc ▸ h.legal
  rxb_length := quiescent_length_le hq
  rxb_quiescent := hq
  txb_length := hb ▸ h.txb_length
  ovf_full := hb ▸ ho ▸ h.ovf_full
  evq_length := hc ▸ hl
  txq_length := hx ▸ hc ▸ h.txq_length
  events := he
  frames := hx ▸ h.frames

/-- ENC's part: a TXB within its capacity, full when it overflowed, and a TXQ of framed bytes within its capacity. -/
theorem of_tx (h : Invariants s) (hb : t.txb.length ≤ Config.maxPayload)
    (ho : t.txOvf = true → t.txb.length = Config.maxPayload) (hl : t.txq.length ≤ s.config.txqCap)
    (hf : FramedBytes t.txq) (hc : t.config = s.config) (hr : t.rxb = s.rxb) (he : t.evq = s.evq) : Invariants t where
  legal := hc ▸ h.legal
  rxb_length := hr ▸ h.rxb_length
  rxb_quiescent := hr ▸ h.rxb_quiescent
  txb_length := hb
  ovf_full := ho
  evq_length := he ▸ hc ▸ h.evq_length
  txq_length := hc ▸ hl
  events := he ▸ h.events
  frames := hf

end Invariants

/-- On a quiescent RXB an accepted byte adds at most one event to EVQ, a consistent one. -/
theorem acceptByte_evq {s : State} (b : Byte) (hq : quiescent s.rxb = true) :
    (acceptByte b s).evq = s.evq ∨ ∃ e : Event, e.Consistent ∧ (acceptByte b s).evq = s.evq ++ [e] := by
  rcases acceptByte_cases b hq with ⟨-, he⟩ | ⟨-, he⟩ <;> rw [he]
  · exact .inl rfl
  · exact syncStep_evq _

/-- A performed RX_PUSH keeps the invariants: EVQ has room for the one event it may emit. -/
theorem acceptByte_keeps_invariants {b : Byte} {s : State} (h : Invariants s) (hf : evqFull s = false) :
    Invariants (acceptByte b s) := by
  have hq := acceptByte_quiescent b h.rxb_quiescent
  have hroom : s.evq.length < s.config.evqCap := by
    have := h.evq_length
    simp [evqFull] at hf
    omega
  rcases acceptByte_evq b h.rxb_quiescent with he | ⟨e, hcons, he⟩
  · exact h.of_rx hq (he ▸ h.evq_length) (he ▸ h.events) (by simp) (by simp) (by simp) (by simp)
  · refine h.of_rx hq (by simpa [he] using hroom) (fun e' he' => ?_) (by simp) (by simp) (by simp) (by simp)
    rw [he] at he'
    rcases List.mem_append.1 he' with hold | hnew
    · exact h.events e' hold
    · exact List.mem_singleton.1 hnew ▸ hcons

theorem exec_keeps_invariants {i : Instr} {s t : State} (h : exec i s = .next t) (hs : Invariants s) : Invariants t := by
  rcases exec_cases h with ⟨-, rfl⟩ | ⟨-, rfl⟩ | ⟨-, rfl⟩ | ⟨b, -, rfl⟩ | ⟨b, -, hf, rfl⟩ | ⟨-, rfl⟩ | ⟨b, -, -, rfl⟩ |
    ⟨b, -, -, hl, rfl⟩ | ⟨b, -, ho, hl, rfl⟩ | ⟨-, -, rfl⟩ | ⟨-, ho, hl, hroom, rfl⟩ | ⟨-, rfl⟩ | ⟨m, -, rfl⟩
  · exact hs
  · exact hs
  · exact hs.congr rfl rfl rfl rfl rfl rfl
  · exact hs.congr rfl rfl rfl rfl rfl rfl
  · exact acceptByte_keeps_invariants hs hf
  · exact hs.of_rx (quiescent_of_short (by simp)) hs.evq_length hs.events rfl rfl rfl rfl
  · exact hs
  · exact hs.of_tx hs.txb_length (fun _ => hl) hs.txq_length hs.frames rfl rfl rfl
  · have hle : s.txb.length ≤ 65535 := hs.txb_length
    exact hs.of_tx (by simp [Config.maxPayload]; omega) (by simp [ho]) hs.txq_length hs.frames rfl rfl rfl
  · exact hs.of_tx (by simp) (by simp) hs.txq_length hs.frames rfl rfl rfl
  · have hle := hs.txq_length
    exact hs.of_tx (by simp) (by simp [ho]) (by simp; omega) (hs.frames.append_frame hl) rfl rfl rfl
  · exact hs.of_tx (by simp) (by simp) hs.txq_length hs.frames rfl rfl rfl
  · exact hs.congr rfl rfl rfl rfl rfl rfl

/-- Settles O54: a command keeps them, a pop takes the head of its queue, RESET begins anew. -/
theorem stepKeepsInvariants : Obligations.StepKeepsInvariants := by
  intro s t hs h
  rcases step_cases h with ⟨-, rfl | ⟨_, _, -, rfl⟩⟩ | ⟨i, _, _, _, -, -, -, -, -, he⟩ | ⟨_, _, _, -, -, -, rfl⟩ |
    ⟨_, _, -, -, rfl⟩ | ⟨e, rest, _, -, -, hevq, rfl⟩ | ⟨b, rest, _, -, -, htxq, rfl⟩ | ⟨r, _, -, -, rfl⟩
  · exact hs
  · exact hs.congr rfl rfl rfl rfl rfl rfl
  · exact exec_keeps_invariants he (hs.congr rfl rfl rfl rfl rfl rfl)
  · exact hs.congr rfl rfl rfl rfl rfl rfl
  · exact hs.congr rfl rfl rfl rfl rfl rfl
  · have hle := hs.evq_length
    have hev := hs.events
    rw [hevq] at hle hev
    exact hs.of_rx hs.rxb_quiescent (Nat.le_of_succ_le hle) (fun e' he' => hev e' (List.mem_cons_of_mem e he')) rfl rfl rfl rfl
  · have hle := hs.txq_length
    have hfr := hs.frames
    rw [htxq] at hle hfr
    exact hs.of_tx hs.txb_length hs.ovf_full (Nat.le_of_succ_le hle) hfr.tail rfl rfl rfl
  · exact (invariants_resetWith hs.legal).congr rfl rfl rfl rfl rfl rfl

/-! ### Every run -/

theorem execTxCommit_fault {s : State} (ho : s.txOvf = false) (hl : 65535 < s.txb.length) :
    exec .txCommit s = .fault .encodeNotDefined := by
  simp [exec, execTxCommit, ho, encodeFrame_of_gt hl]

/-- Settles O23: TXB never holds more than `encode` takes. -/
theorem txCommitStopsWhereEncodeNotDefined : Obligations.TxCommitStopsWhereEncodeNotDefined :=
  ⟨fun _ => execTxCommit_fault, fun _ hs h => absurd hs.txb_length (Nat.not_le.2 h.2)⟩

/-- With no more in TXB than `encode` takes, every command answers a next state. -/
theorem exec_answers (i : Instr) {s : State} (hl : s.txb.length ≤ 65535) : ∃ t, exec i s = .next t := by
  cases i with
  | nop => exact ⟨_, rfl⟩
  | crcInit => exact ⟨_, rfl⟩
  | crcUpdate b => exact ⟨_, rfl⟩
  | rxClear => exact ⟨_, rfl⟩
  | txAbort => exact ⟨_, rfl⟩
  | clrStatus m => exact ⟨_, rfl⟩
  | rxPush b =>
    simp only [exec, execRxPush]
    split <;> exact ⟨_, rfl⟩
  | txPush b =>
    simp only [exec, execTxPush]
    split
    · exact ⟨_, rfl⟩
    · split <;> exact ⟨_, rfl⟩
  | txCommit =>
    simp only [exec, execTxCommit, encodeFrame_of_le hl]
    split
    · exact ⟨_, rfl⟩
    · split <;> exact ⟨_, rfl⟩

theorem offerCommand_answers {s : State} (hl : s.txb.length ≤ 65535) : ∃ t, offerCommand s = .next t := by
  unfold offerCommand
  split
  · exact ⟨_, rfl⟩
  · split
    · split
      · exact ⟨_, rfl⟩
      · exact exec_answers _ hl
    · exact ⟨_, rfl⟩

theorem step_answers {s : State} (hl : s.txb.length ≤ 65535) : ∃ t, step s = .next t := by
  match ht : s.turns with
  | [] => exact ⟨s, step_idle ht⟩
  | u :: ts =>
    rw [step_turn ht]
    cases u with
    | command => exact offerCommand_answers hl
    | regRead idx => exact ⟨_, rfl⟩
    | evtPop => exact ⟨_, rfl⟩
    | txPop => exact ⟨_, rfl⟩
    | reset r => exact ⟨_, rfl⟩

/-- From a state that meets the invariants, every number of steps answers a next state that meets them. -/
theorem run_keeps_invariants (n : Nat) {s : State} (hs : Invariants s) : ∃ t, run n s = .next t ∧ Invariants t := by
  induction n generalizing s with
  | zero => exact ⟨s, run_zero s, hs⟩
  | succ n ih =>
    obtain ⟨u, hu⟩ := step_answers hs.txb_length
    rw [run_succ_next hu]
    exact ih (stepKeepsInvariants s u hs hu)

/-- Settles O55: the words and turns of the agents are no part of the invariants, which hold at reset. -/
theorem noRunStops : Obligations.NoRunStops := fun _ _ _ n hc =>
  run_keeps_invariants n ((invariants_resetWith hc).congr rfl rfl rfl rfl rfl rfl)

end Sys2Proof.Machine
end

section
/-! PROOFS. The order of what the ports deliver, and which commands are idempotent (20_memory.md R68, R71). -/

namespace Sys2Proof.Machine

/-! ### Order (R71) -/

/-- From a quiescent RXB a command leaves EVQ as it is, or it is an RX_PUSH and one event joins the tail. -/
theorem exec_evq {i : Instr} {s t : State} (h : exec i s = .next t) (hq : quiescent s.rxb = true) :
    t.evq = s.evq ∨ ∃ b e, i = .rxPush b ∧ t.evq = s.evq ++ [e] := by
  by_cases heq : t.evq = s.evq
  · exact .inl heq
  obtain ⟨-, -, -, hpush, -⟩ := exec_writers h
  obtain ⟨b, rfl⟩ := hpush heq
  rw [exec] at h
  cases hf : evqFull s with
  | true =>
    rw [execRxPush_of_full hf] at h
    cases h
    exact .inl rfl
  | false =>
    rw [execRxPush_of_room hf] at h
    cases h
    rcases acceptByte_evq b hq with he | ⟨e, -, he⟩
    · exact .inl he
    · exact .inr ⟨b, e, rfl, he⟩

/-- A command leaves TXQ as it is, or it is a TX_COMMIT and the frame of the payload joins the tail. -/
theorem exec_txq {i : Instr} {s t : State} (h : exec i s = .next t) :
    t.txq = s.txq ∨ i = .txCommit ∧ t.txq = s.txq ++ frameOf s.txb := by
  by_cases heq : t.txq = s.txq
  · exact .inl heq
  obtain ⟨-, -, -, -, -, hcommit⟩ := exec_writers h
  obtain rfl := hcommit heq
  rcases execTxCommit_cases h with ⟨-, rfl⟩ | ⟨-, -, -, rfl⟩ | ⟨-, -, -, rfl⟩
  · exact .inl rfl
  · exact .inl rfl
  · exact .inr ⟨rfl, rfl⟩

/-- Settles O56: a pop moves the head of EVQ to the end of what was taken, and an RX_PUSH adds at the tail of EVQ. -/
theorem eventsKeepTheirOrder : Obligations.EventsKeepTheirOrder := by
  intro s t hq h hreset
  rcases step_cases h with ⟨-, rfl | ⟨_, _, -, rfl⟩⟩ | ⟨i, _, _, _, hp, -, -, -, -, he⟩ | ⟨_, _, _, -, -, -, rfl⟩ |
    ⟨_, _, -, -, rfl⟩ | ⟨e, rest, _, -, -, hevq, rfl⟩ | ⟨_, _, _, -, -, -, rfl⟩ | ⟨r, _, hp, -, -⟩
  case inr.inl =>
    obtain ⟨-, -, -, -, htaken, -⟩ := exec_frame he
    rcases exec_evq he hq with hevq | ⟨b, e, rfl, hevq⟩
    · exact ⟨[], by simp [htaken, hevq]⟩
    · exact ⟨[e], by simp [htaken, hevq], by simp, fun _ => ⟨b, hp⟩⟩
  case inr.inr.inr.inr.inl => exact ⟨[], by simp [hevq]⟩
  case inr.inr.inr.inr.inr.inr => exact absurd hp (hreset r)
  all_goals exact ⟨[], by simp⟩

/-- Settles O57: a pop moves the head of TXQ to the end of what was sent, and a TX_COMMIT adds at the tail of TXQ. -/
theorem sentBytesKeepTheirOrder : Obligations.SentBytesKeepTheirOrder := by
  intro s t h hreset
  rcases step_cases h with ⟨-, rfl | ⟨_, _, -, rfl⟩⟩ | ⟨i, _, _, _, hp, -, -, -, -, he⟩ | ⟨_, _, _, -, -, -, rfl⟩ |
    ⟨_, _, -, -, rfl⟩ | ⟨_, _, _, -, -, -, rfl⟩ | ⟨b, rest, _, -, -, htxq, rfl⟩ | ⟨r, _, hp, -, -⟩
  case inr.inl =>
    obtain ⟨-, -, -, -, -, hsent⟩ := exec_frame he
    rcases exec_txq he with htxq | ⟨rfl, htxq⟩
    · exact ⟨[], by simp [hsent, htxq]⟩
    · exact ⟨frameOf s.txb, by simp [hsent, htxq], fun _ => ⟨hp, rfl⟩⟩
  case inr.inr.inr.inr.inr.inl => exact ⟨[], by simp [htxq]⟩
  case inr.inr.inr.inr.inr.inr => exact absurd hp (hreset r)
  all_goals exact ⟨[], by simp⟩

/-! ### Idempotent commands (R68) -/

/-- With room in EVQ, a byte that leaves RXB too short for a frame only joins its tail. -/
theorem exec_rxPush_of_short {s : State} (b : Byte) (hl : s.rxb.length < 5) (hroom : s.evq.length ≠ s.config.evqCap) :
    exec (.rxPush b) s = .next { s with rxb := s.rxb ++ [b] } := by
  have hf : evqFull s = false := by simpa [evqFull] using hroom
  have hq : quiescent (s.rxb ++ [b]) = true := quiescent_of_short (by simp; omega)
  rw [exec, execRxPush_of_room hf, acceptByte_of_quiescent hq]

/-- While the payload has room, TX_PUSH appends its byte. -/
theorem exec_txPush_append {s : State} (b : Byte) (ho : s.txOvf = false) (hl : s.txb.length ≠ 65535) :
    exec (.txPush b) s = .next { s with txb := s.txb ++ [b] } := by
  simp [exec, execTxPush, ho, Config.maxPayload, hl]

/-- While TXQ has room for the frame, TX_COMMIT queues it and empties TXB. -/
theorem exec_txCommit_queue {s : State} (ho : s.txOvf = false) (hl : s.txb.length ≤ 65535)
    (hroom : 6 + s.txb.length ≤ s.config.txqCap - s.txq.length) :
    exec .txCommit s = .next { s with txq := s.txq ++ frameOf s.txb, txb := [] } := by
  simp [exec, execTxCommit, ho, encodeFrame_of_le hl, txqLacksRoom, Nat.not_lt.2 hroom, commitFrame, clearTxb, enqueueTx]

/-- Settles O52: each command given twice; CRC_UPDATE with 0x00 twice from reset leaves 0x40BF and then another value. -/
theorem idempotentCommands : Obligations.IdempotentCommands := by
  refine ⟨fun i s hi => ?_, fun s => rfl, ⟨State.reset, _, _, 0x00, rfl, rfl, by decide⟩, fun s b hl hroom => ?_,
    fun s b ho hl => ?_, fun s ho hl hroom => ?_⟩
  · rcases hi with rfl | rfl | rfl | rfl | ⟨m, rfl⟩
    case inr.inr.inr.inr => exact ⟨_, execClrStatus_eq m s, by simp [exec, execClrStatus_eq]⟩
    all_goals exact ⟨_, rfl, rfl⟩
  · exact ⟨_, _, exec_rxPush_of_short b (by omega) hroom, exec_rxPush_of_short b (by simp; omega) hroom, by simp⟩
  · exact ⟨_, _, exec_txPush_append b ho (by omega), exec_txPush_append b ho (by simp; omega), by simp⟩
  · exact ⟨_, _, exec_txCommit_queue ho hl (by omega), exec_txCommit_queue ho (by simp) (by simp; omega), rfl⟩

end Sys2Proof.Machine
end

section
/-! PROOFS. The decoder against the encoder and the opcode map (30_encoding.md R84 to R88): one word for each well-formed
instruction, one row for each legal word, and the words that are illegal. -/

namespace Sys2Proof

/-- The OPC byte of the row an instruction belongs to (R86). -/
def Instr.opcode : Instr → Byte
  | .nop => 0x00
  | .crcInit => 0x01
  | .crcUpdate _ => 0x02
  | .rxPush _ => 0x10
  | .rxClear => 0x11
  | .txPush _ => 0x20
  | .txCommit => 0x21
  | .txAbort => 0x22
  | .clrStatus _ => 0x30

/-- The bits of IMM that are 0 in every word of the instruction's row: all, none, or the reserved bits of the mask. -/
def Instr.zeroBits : Instr → Byte
  | .nop => 0xFF
  | .crcInit => 0xFF
  | .crcUpdate _ => 0x00
  | .rxPush _ => 0x00
  | .rxClear => 0xFF
  | .txPush _ => 0x00
  | .txCommit => 0xFF
  | .txAbort => 0xFF
  | .clrStatus _ => reservedMaskBits

/-! ### Words, rows and the two bytes -/

theorem and_allOnes_byte (b : Byte) : b &&& 0xFF = b := BitVec.and_allOnes

theorem commandWord_inj {opc imm opc' imm' : Byte} :
    commandWord opc imm = commandWord opc' imm' ↔ opc = opc' ∧ imm = imm' := by
  refine ⟨fun h => ?_, fun ⟨ho, hi⟩ => by rw [ho, hi]⟩
  exact ⟨by simpa only [opcField_commandWord] using congrArg opcField h,
    by simpa only [immField_commandWord] using congrArg immField h⟩

theorem commandWord_and (opc imm opc' imm' : Byte) :
    commandWord opc imm &&& commandWord opc' imm' = commandWord (opc &&& opc') (imm &&& imm') :=
  BitVec.and_append

theorem encode_eq_commandWord (i : Instr) : encode i = commandWord i.opcode i.operand := by
  cases i <;> rfl

theorem Instr.wellFormed_iff (i : Instr) : i.wellFormed = true ↔ i.operand &&& i.zeroBits = 0 := by
  cases i <;> simp [Instr.wellFormed, Instr.operand, Instr.zeroBits]

theorem Instr.row_pattern (i : Instr) : i.row.pattern = commandWord i.opcode 0x00 := by
  cases i <;> simp only [Instr.row, Instr.opcode] <;> decide

theorem Instr.row_mask (i : Instr) : i.row.mask = commandWord 0xFF i.zeroBits := by
  cases i <;> simp only [Instr.row, Instr.zeroBits] <;> decide

/-- A word meets an instruction's row when its OPC is the instruction's and its IMM is 0 where that row says so. -/
theorem Instr.row_meets_iff (i : Instr) (w : Word) :
    i.row.meets w = true ↔ opcField w = i.opcode ∧ immField w &&& i.zeroBits = 0 := by
  rw [OpcodeRow.meets, beq_iff_eq, i.row_mask, i.row_pattern, ← commandWord_fields w, commandWord_and, commandWord_inj,
    and_allOnes_byte, commandWord_fields]

/-! ### The decoder's answers -/

theorem fields_of_decodeNoOperand {w : Word} {i j : Instr} (h : decodeNoOperand w j = .ok i)
    (hopc : opcField w = j.opcode) (hop : j.operand = 0) :
    opcField w = i.opcode ∧ immField w = i.operand ∧ i.wellFormed = true := by
  rcases ite_eq_iff.1 h with ⟨himm, h⟩ | ⟨-, h⟩ <;> cases h
  exact ⟨hopc, himm.trans hop.symm, (Instr.wellFormed_iff _).2 (by rw [hop]; exact BitVec.zero_and)⟩

/-- What a decoded word says about its two bytes, branch by branch of the decoder. -/
theorem fields_of_decode {w : Word} {i : Instr} (h : decode w = .ok i) :
    opcField w = i.opcode ∧ immField w = i.operand ∧ i.wellFormed = true := by
  unfold decode at h
  rcases ite_eq_iff.1 h with ⟨hopc, h⟩ | ⟨-, h⟩
  · exact fields_of_decodeNoOperand h hopc rfl
  rcases ite_eq_iff.1 h with ⟨hopc, h⟩ | ⟨-, h⟩
  · exact fields_of_decodeNoOperand h hopc rfl
  rcases ite_eq_iff.1 h with ⟨hopc, h⟩ | ⟨-, h⟩
  · cases h
    exact ⟨hopc, rfl, rfl⟩
  rcases ite_eq_iff.1 h with ⟨hopc, h⟩ | ⟨-, h⟩
  · cases h
    exact ⟨hopc, rfl, rfl⟩
  rcases ite_eq_iff.1 h with ⟨hopc, h⟩ | ⟨-, h⟩
  · exact fields_of_decodeNoOperand h hopc rfl
  rcases ite_eq_iff.1 h with ⟨hopc, h⟩ | ⟨-, h⟩
  · cases h
    exact ⟨hopc, rfl, rfl⟩
  rcases ite_eq_iff.1 h with ⟨hopc, h⟩ | ⟨-, h⟩
  · exact fields_of_decodeNoOperand h hopc rfl
  rcases ite_eq_iff.1 h with ⟨hopc, h⟩ | ⟨-, h⟩
  · exact fields_of_decodeNoOperand h hopc rfl
  rcases ite_eq_iff.1 h with ⟨hopc, h⟩ | ⟨-, h⟩
  · rcases ite_eq_iff.1 h with ⟨hmask, h⟩ | ⟨-, h⟩ <;> cases h
    exact ⟨hopc, rfl, (Instr.wellFormed_iff _).2 hmask⟩
  · cases h

/-- Settles O4: the two bytes of the encoding are read back, and lead the decoder to the instruction's own branch. -/
theorem decodeOfEncode : Obligations.DecodeOfEncode := by
  intro i hi
  simp only [encode_eq_commandWord, decode, decodeNoOperand, opcField_commandWord, immField_commandWord]
  cases i with
  | clrStatus m =>
    have hz : m &&& reservedMaskBits = 0 := (Instr.wellFormed_iff _).1 hi
    simp [Instr.opcode, Instr.operand, hz]
  | _ => simp [Instr.opcode, Instr.operand]

/-- The decoder inverts the encoder. -/
theorem decode_eq_ok_iff (w : Word) (i : Instr) : decode w = .ok i ↔ w = encode i ∧ i.wellFormed = true := by
  refine ⟨fun h => ?_, fun ⟨hw, hi⟩ => hw ▸ decodeOfEncode i hi⟩
  obtain ⟨hopc, himm, hwf⟩ := fields_of_decode h
  exact ⟨by rw [encode_eq_commandWord, ← hopc, ← himm, commandWord_fields], hwf⟩

/-- Settles O5: the other direction of the same equivalence. -/
theorem encodeOfDecode : Obligations.EncodeOfDecode := by
  intro w i h
  obtain ⟨hw, hi⟩ := (decode_eq_ok_iff w i).1 h
  exact ⟨hw.symm, hi⟩

/-! ### The opcode map -/

/-- A word decodes to an instruction when it meets the instruction's row and carries its operand. -/
theorem decode_eq_ok_iff_meets (w : Word) (i : Instr) :
    decode w = .ok i ↔ i.row.meets w = true ∧ i.operand = immField w := by
  rw [decode_eq_ok_iff, encode_eq_commandWord, i.wellFormed_iff, i.row_meets_iff]
  constructor
  · rintro ⟨rfl, hz⟩
    rw [opcField_commandWord, immField_commandWord]
    exact ⟨⟨rfl, hz⟩, rfl⟩
  · rintro ⟨⟨hopc, hz⟩, himm⟩
    rw [← hopc, himm, commandWord_fields]
    exact ⟨rfl, hz⟩

theorem mem_opcodeTable_iff (r : OpcodeRow) : r ∈ opcodeTable ↔ ∃ i : Instr, i.row = r := by
  constructor
  · simp only [opcodeTable, List.mem_cons, List.not_mem_nil, or_false]
    rintro (h | h | h | h | h | h | h | h | h) <;> exact ⟨_, h.symm⟩
  · rintro ⟨i, rfl⟩
    cases i <;> simp [opcodeTable, Instr.row]

theorem Instr.row_mem (i : Instr) : i.row ∈ opcodeTable := (mem_opcodeTable_iff _).2 ⟨i, rfl⟩

/-- Each row has an instruction for every operand that its mask lets through. -/
theorem Instr.exists_row_operand (i : Instr) {b : Byte} (hb : b &&& i.zeroBits = 0) :
    ∃ j : Instr, j.row = i.row ∧ j.operand = b := by
  cases i with
  | crcUpdate _ => exact ⟨.crcUpdate b, rfl, rfl⟩
  | rxPush _ => exact ⟨.rxPush b, rfl, rfl⟩
  | txPush _ => exact ⟨.txPush b, rfl, rfl⟩
  | clrStatus _ => exact ⟨.clrStatus b, rfl, rfl⟩
  | nop => exact ⟨.nop, rfl, (and_allOnes_byte b ▸ hb).symm⟩
  | crcInit => exact ⟨.crcInit, rfl, (and_allOnes_byte b ▸ hb).symm⟩
  | rxClear => exact ⟨.rxClear, rfl, (and_allOnes_byte b ▸ hb).symm⟩
  | txCommit => exact ⟨.txCommit, rfl, (and_allOnes_byte b ▸ hb).symm⟩
  | txAbort => exact ⟨.txAbort, rfl, (and_allOnes_byte b ▸ hb).symm⟩

/-- A word that meets a row decodes to a command of that row. -/
theorem decode_of_meets {w : Word} {r : OpcodeRow} (hr : r ∈ opcodeTable) (h : r.meets w = true) :
    ∃ i, decode w = .ok i ∧ i.row = r := by
  obtain ⟨i, rfl⟩ := (mem_opcodeTable_iff r).1 hr
  obtain ⟨j, hrow, hop⟩ := i.exists_row_operand ((i.row_meets_iff w).1 h).2
  exact ⟨j, (decode_eq_ok_iff_meets w j).2 ⟨hrow ▸ h, hop⟩, hrow⟩

/-- The illegal words are those that meet no row. -/
theorem decode_error_iff_meets (w : Word) : (∃ e, decode w = .error e) ↔ ∀ r ∈ opcodeTable, r.meets w = false := by
  constructor
  · rintro ⟨e, he⟩ r hr
    refine Bool.eq_false_iff.2 fun h => ?_
    obtain ⟨i, hi, -⟩ := decode_of_meets hr h
    rw [he] at hi
    cases hi
  · intro h
    match hd : decode w with
    | .error e => exact ⟨e, rfl⟩
    | .ok i =>
      have hmeets := ((decode_eq_ok_iff_meets w i).1 hd).1
      rw [h i.row i.row_mem] at hmeets
      cases hmeets

/-- No word meets two rows: it would decode to a command of each. -/
theorem row_eq_of_meets {w : Word} {r r' : OpcodeRow} (hr : r ∈ opcodeTable) (hr' : r' ∈ opcodeTable)
    (h : r.meets w = true) (h' : r'.meets w = true) : r = r' := by
  obtain ⟨i, hi, rfl⟩ := decode_of_meets hr h
  obtain ⟨j, hj, rfl⟩ := decode_of_meets hr' h'
  rw [hi] at hj
  cases hj
  rfl

/-- Settles O1: the equivalence, and the nine rows, which differ pairwise. -/
theorem decodeFollowsOpcodeMap : Obligations.DecodeFollowsOpcodeMap := by
  refine ⟨decode_eq_ok_iff_meets, fun w r hr h => decode_of_meets hr h, ?_⟩
  have hdistinct : opcodeTable.Nodup := by decide
  exact hdistinct.imp_of_mem fun hr hr' hne w ⟨h, h'⟩ => hne (row_eq_of_meets hr hr' h h')

end Sys2Proof
end

section
/-! PROOFS. Illegal words and the legal ones by number (30_encoding.md R87, R88; 44_control.md R193), with the sample words and
lines (R93, R94). -/

namespace Sys2Proof.Machine

/-! ### The three cases of an illegal word (R88) -/

/-- A listed OPC is that of a command. -/
theorem exists_opcode {opc : Byte} (h : opc ∈ ([0x00, 0x01, 0x02, 0x10, 0x11, 0x20, 0x21, 0x22, 0x30] : List Byte)) :
    ∃ i : Instr, opc = i.opcode := by
  have hlist : ([0x00, 0x01, 0x02, 0x10, 0x11, 0x20, 0x21, 0x22, 0x30] : List Byte) =
      [Instr.nop, .crcInit, .crcUpdate 0, .rxPush 0, .rxClear, .txPush 0, .txCommit, .txAbort, .clrStatus 0].map
        Instr.opcode := rfl
  rw [hlist, List.mem_map] at h
  obtain ⟨i, -, hi⟩ := h
  exact ⟨i, hi.symm⟩

theorem opcode_listed (i : Instr) :
    i.opcode ∈ ([0x00, 0x01, 0x02, 0x10, 0x11, 0x20, 0x21, 0x22, 0x30] : List Byte) := by
  cases i <;> simp [Instr.opcode]

/-- The row of a command without operand wants every bit of IMM 0. -/
theorem zeroBits_of_noOperand {i : Instr} (h : i.opcode ∈ ([0x00, 0x01, 0x11, 0x21, 0x22] : List Byte)) :
    i.zeroBits = 0xFF := by
  cases i <;> simp_all [Instr.opcode, Instr.zeroBits]

/-- The row of CLR_STATUS wants the reserved bits of the mask 0 (R193). -/
theorem zeroBits_of_clrStatus {i : Instr} (h : i.opcode = 0x30) : i.zeroBits = 0xFA := by
  cases i <;> simp_all [Instr.opcode, Instr.zeroBits, reservedMaskBits]

/-- When IMM breaks the row of its OPC, that row is of a command without operand, or of CLR_STATUS. -/
theorem operand_rejected {i : Instr} {imm : Byte} (h : imm &&& i.zeroBits ≠ 0) :
    (i.opcode ∈ ([0x00, 0x01, 0x11, 0x21, 0x22] : List Byte) ∧ imm ≠ 0x00) ∨
    (i.opcode = 0x30 ∧ imm &&& 0xFA ≠ 0) := by
  have himm : imm ≠ 0x00 := fun h0 => h (by rw [h0]; exact BitVec.zero_and)
  cases i with
  | crcUpdate b => exact absurd BitVec.and_zero h
  | rxPush b => exact absurd BitVec.and_zero h
  | txPush b => exact absurd BitVec.and_zero h
  | clrStatus m => exact .inr ⟨rfl, h⟩
  | _ => exact .inl ⟨by simp [Instr.opcode], himm⟩

/-- The illegal words by the three cases of R88. -/
theorem decode_error_iff (w : Word) : (∃ e, decode w = .error e) ↔
    opcField w ∉ ([0x00, 0x01, 0x02, 0x10, 0x11, 0x20, 0x21, 0x22, 0x30] : List Byte) ∨
    (opcField w ∈ ([0x00, 0x01, 0x11, 0x21, 0x22] : List Byte) ∧ immField w ≠ 0x00) ∨
    (opcField w = 0x30 ∧ immField w &&& 0xFA ≠ 0) := by
  rw [decode_error_iff_meets]
  constructor
  · intro h
    refine or_iff_not_imp_left.2 fun hlisted => ?_
    obtain ⟨i, hi⟩ := exists_opcode (not_not.1 hlisted)
    have hrow := h i.row i.row_mem
    rw [hi]
    exact operand_rejected fun hz => Bool.eq_false_iff.1 hrow ((i.row_meets_iff w).2 ⟨hi, hz⟩)
  · intro hcase r hr
    obtain ⟨i, rfl⟩ := (mem_opcodeTable_iff r).1 hr
    refine Bool.eq_false_iff.2 fun h => ?_
    obtain ⟨hopc, hz⟩ := (i.row_meets_iff w).1 h
    rw [hopc] at hcase
    rcases hcase with hout | ⟨hin, himm⟩ | ⟨hclr, hres⟩
    · exact hout (opcode_listed i)
    · rw [zeroBits_of_noOperand hin, and_allOnes_byte] at hz
      exact himm hz
    · rw [zeroBits_of_clrStatus hclr] at hz
      exact hres hz

/-- The host's turn with an illegal word sets ILL and takes the word off the host's list. -/
theorem step_illegal {s : State} {w : Word} {ws : List Word} {ts : List Turn} {e : DecodeError}
    (ht : s.turns = .command :: ts) (hc : s.cmds = w :: ws) (hd : decode w = .error e) :
    step s = .next { s with turns := ts, cmds := ws, ill := true } := by
  simp [step_turn ht, runTurn, offerCommand, hc, hd, illegalWord, raise]

/-- Settles O3: the cases of R88, and the turn of an illegal word. -/
theorem illegalWordsByCase : Obligations.IllegalWordsByCase :=
  ⟨decode_error_iff, fun _ _ _ _ _ => step_illegal⟩

/-! ### Counting (R87) -/

theorem opcField_ofNat (n : Nat) : opcField (BitVec.ofNat 16 n) = BitVec.ofNat 8 (n / 256) := by
  apply BitVec.eq_of_toNat_eq
  simp [opcField, Nat.shiftRight_eq_div_pow]
  omega

theorem immField_ofNat (n : Nat) : immField (BitVec.ofNat 16 n) = BitVec.ofNat 8 n := by
  apply BitVec.eq_of_toNat_eq
  simp [immField]

/-- The match value of the row that the word numbered n belongs to, none for an illegal word. -/
def decodedPattern (n : Nat) : Option Word :=
  match decode (BitVec.ofNat 16 n) with
  | .ok i => some i.row.pattern
  | .error _ => none

theorem isWordOf_iff (p : Word) (n : Nat) : isWordOf p n = true ↔ decodedPattern n = some p := by
  unfold isWordOf decodedPattern
  cases decode (BitVec.ofNat 16 n) <;> simp

theorem isIllegalWord_iff (n : Nat) : isIllegalWord n = true ↔ decodedPattern n = none := by
  unfold isIllegalWord decodedPattern
  cases decode (BitVec.ofNat 16 n) <;> simp

theorem decodedPattern_of_ok {n : Nat} {i : Instr} (h : decode (BitVec.ofNat 16 n) = .ok i) :
    decodedPattern n = some i.row.pattern := by
  simp [decodedPattern, h]

/-- A row is known by its match value. -/
theorem row_eq_of_pattern {i j : Instr} (h : i.row.pattern = j.row.pattern) : i.row = j.row := by
  have hdistinct : ∀ r ∈ opcodeTable, ∀ r' ∈ opcodeTable, r.pattern = r'.pattern → r = r' := by decide
  exact hdistinct _ i.row_mem _ j.row_mem h

/-- The words of a row by their two bytes. -/
theorem decodedPattern_eq_row_iff (i : Instr) (n : Nat) : decodedPattern n = some i.row.pattern ↔
    BitVec.ofNat 8 (n / 256) = i.opcode ∧ BitVec.ofNat 8 n &&& i.zeroBits = 0 := by
  rw [← opcField_ofNat, ← immField_ofNat, ← i.row_meets_iff]
  constructor
  · intro h
    match hd : decode (BitVec.ofNat 16 n) with
    | .error _ => simp [decodedPattern, hd] at h
    | .ok j =>
      rw [decodedPattern_of_ok hd, Option.some_inj] at h
      exact row_eq_of_pattern h ▸ ((decode_eq_ok_iff_meets _ j).1 hd).1
  · intro h
    obtain ⟨j, hj, hrow⟩ := decode_of_meets i.row_mem h
    rw [decodedPattern_of_ok hj, hrow]

theorem ofNat_byte_mod (n : Nat) : BitVec.ofNat 8 (n % 256) = BitVec.ofNat 8 n := by
  apply BitVec.eq_of_toNat_eq
  simp

theorem ofNat_byte_add (a n : Nat) : BitVec.ofNat 8 (256 * a + n) = BitVec.ofNat 8 n := by
  apply BitVec.eq_of_toNat_eq
  simp [Nat.add_mod]

/-- A row has as many words as there are operands that its mask lets through. -/
theorem legalWordsOf_row (i : Instr) : legalWordsOf i.row.pattern =
    ((Finset.range 256).filter fun b => BitVec.ofNat 8 b &&& i.zeroBits = 0).card := by
  have hopc := i.opcode.isLt
  refine Finset.card_nbij' (· % 256) (256 * i.opcode.toNat + ·) ?_ ?_ ?_ ?_
  all_goals
    intro n hn
    simp only [Finset.coe_filter, Finset.mem_range, Set.mem_ofPred_eq, isWordOf_iff, decodedPattern_eq_row_iff] at hn ⊢
  · obtain ⟨-, -, himm⟩ := hn
    exact ⟨Nat.mod_lt n (by decide), by rwa [ofNat_byte_mod]⟩
  · obtain ⟨hn, himm⟩ := hn
    refine ⟨by omega, ?_, by rwa [ofNat_byte_add]⟩
    rw [show (256 * i.opcode.toNat + n) / 256 = i.opcode.toNat by omega, BitVec.ofNat_toNat, BitVec.setWidth_eq]
  · obtain ⟨hn, hn', -⟩ := hn
    rw [← hn', BitVec.toNat_ofNat]
    omega
  · omega

/-- One word for a command whose IMM must be 0x00. -/
theorem legalWordsOf_noOperand (i : Instr) (hz : i.zeroBits = 0xFF) : legalWordsOf i.row.pattern = 1 := by
  rw [legalWordsOf_row, hz]
  decide

/-- A word for every byte of a command that takes any. -/
theorem legalWordsOf_anyOperand (i : Instr) (hz : i.zeroBits = 0x00) : legalWordsOf i.row.pattern = 256 := by
  rw [legalWordsOf_row, hz]
  simp

theorem legalWordsOf_clrStatus (m : Byte) : legalWordsOf (Instr.clrStatus m).row.pattern = 4 := by
  rw [legalWordsOf_row, Instr.zeroBits]
  decide

/-- How many words numbered below N belong to the row with this match value, or are illegal. -/
def wordsBelow (N : Nat) (o : Option Word) : Nat := ((Finset.range N).filter fun n => decodedPattern n = o).card

theorem illegalWords_eq_wordsBelow : illegalWords = wordsBelow 65536 none := by
  simp only [illegalWords, wordsBelow, isIllegalWord_iff]

theorem legalWordsOf_eq_wordsBelow (p : Word) : legalWordsOf p = wordsBelow 65536 (some p) := by
  simp only [legalWordsOf, wordsBelow, isWordOf_iff]

/-- A word is illegal or belongs to a row of the opcode map. -/
theorem decodedPattern_mem (n : Nat) : decodedPattern n ∈ none :: opcodeTable.map fun r => some r.pattern := by
  match hd : decode (BitVec.ofNat 16 n) with
  | .error _ => simp [decodedPattern, hd]
  | .ok i =>
    rw [decodedPattern_of_ok hd]
    exact List.mem_cons_of_mem _ (List.mem_map_of_mem i.row_mem)

/-- The illegal words and the words of the rows are all the words, each counted once. -/
theorem wordsBelow_sum (N : Nat) :
    wordsBelow N none + (opcodeTable.map fun r => wordsBelow N (some r.pattern)).sum = N := by
  have hmaps : ∀ n ∈ Finset.range N, decodedPattern n ∈ (none :: opcodeTable.map fun r => some r.pattern).toFinset :=
    fun n _ => List.mem_toFinset.2 (decodedPattern_mem n)
  have hdistinct : (none :: opcodeTable.map fun r => some r.pattern).Nodup := by decide
  have hcount : N = ∑ o ∈ _, wordsBelow N o :=
    (Finset.card_range N).symm.trans (Finset.card_eq_sum_card_fiberwise hmaps)
  rw [List.sum_toFinset _ hdistinct, List.map_cons, List.sum_cons, List.map_map] at hcount
  exact hcount.symm

theorem legalWordsOf_sum : (opcodeTable.map fun r => legalWordsOf r.pattern).sum = 777 := by
  simp only [opcodeTable, List.map_cons, List.map_nil, List.sum_cons, List.sum_nil, legalWordsOf_noOperand .nop rfl,
    legalWordsOf_noOperand .crcInit rfl, legalWordsOf_noOperand .rxClear rfl, legalWordsOf_noOperand .txCommit rfl,
    legalWordsOf_noOperand .txAbort rfl, legalWordsOf_anyOperand (.crcUpdate 0) rfl, legalWordsOf_anyOperand (.rxPush 0) rfl,
    legalWordsOf_anyOperand (.txPush 0) rfl, legalWordsOf_clrStatus 0, Nat.reduceAdd]

/-- The illegal words are the rest of the 65536. -/
theorem illegalWords_eq : illegalWords = 64759 := by
  have hsum : illegalWords + (opcodeTable.map fun r => legalWordsOf r.pattern).sum = 65536 := by
    simp only [illegalWords_eq_wordsBelow, legalWordsOf_eq_wordsBelow, wordsBelow_sum]
  rw [Nat.eq_sub_of_add_eq hsum, legalWordsOf_sum]

/-! ### The words of CLR_STATUS (R193) -/

theorem freeMask_iff : ∀ m : Byte, m &&& reservedMaskBits = 0 ↔ m ∈ ([0x00, 0x01, 0x04, 0x05] : List Byte) := by
  decide

/-- CLR_STATUS has four words. -/
theorem decode_clrStatus_iff (w : Word) (m : Byte) : decode w = .ok (.clrStatus m) ↔
    w = commandWord 0x30 m ∧ w ∈ ([0x3000, 0x3001, 0x3004, 0x3005] : List Word) := by
  rw [decode_eq_ok_iff, Instr.wellFormed_iff]
  refine and_congr_right fun hw => ?_
  rw [hw]
  have hwords : ([0x3000, 0x3001, 0x3004, 0x3005] : List Word) =
      ([0x00, 0x01, 0x04, 0x05] : List Byte).map (commandWord 0x30) := by decide
  rw [hwords, List.mem_map]
  simp only [encode, commandWord_inj, true_and, exists_eq_right]
  exact freeMask_iff m

/-- A word with a reserved mask bit set is illegal. -/
theorem decode_reservedMask {m : Byte} (hm : m &&& 0xFA ≠ 0) : ∃ e, decode (commandWord 0x30 m) = .error e :=
  (decode_error_iff _).2 (.inr (.inr ⟨opcField_commandWord _ _, by rwa [immField_commandWord]⟩))

/-- Settles O2: a legal word by its row, an illegal word by having none, and the counts. -/
theorem legalWordsAreCounted : Obligations.LegalWordsAreCounted := by
  refine ⟨fun w => ?_, ?_, ?_, legalWordsOf_clrStatus 0, fun w i h hp => ?_, illegalWords_eq⟩
  · match hd : decode w with
    | .ok i =>
      have hmeets := ((decode_eq_ok_iff_meets w i).1 hd).1
      exact .inl ⟨i.row, i.row_mem, hmeets, fun r' hr' h' => row_eq_of_meets hr' i.row_mem h' hmeets, i, rfl⟩
    | .error e => exact .inr ⟨(decode_error_iff_meets w).1 ⟨e, hd⟩, e, rfl⟩
  · simp only [List.forall_mem_cons, List.not_mem_nil, false_imp_iff, implies_true, and_true]
    exact ⟨legalWordsOf_noOperand .nop rfl, legalWordsOf_noOperand .crcInit rfl, legalWordsOf_noOperand .rxClear rfl,
      legalWordsOf_noOperand .txCommit rfl, legalWordsOf_noOperand .txAbort rfl⟩
  · simp only [List.forall_mem_cons, List.not_mem_nil, false_imp_iff, implies_true, and_true]
    exact ⟨legalWordsOf_anyOperand (.crcUpdate 0) rfl, legalWordsOf_anyOperand (.rxPush 0) rfl,
      legalWordsOf_anyOperand (.txPush 0) rfl⟩
  · cases i with
    | clrStatus m => exact ((decode_clrStatus_iff w m).1 h).2
    | _ => simp [Instr.row] at hp

/-- Settles O25: the command at every mask, its words, an illegal mask, and the example of a mask that clears ILL alone. -/
theorem clrStatusClearsStickyFlags : Obligations.ClrStatusClearsStickyFlags := by
  refine ⟨fun s m => ⟨execClrStatus_eq m s, rfl⟩, decode_clrStatus_iff, fun s ws ts m ht hc hm => ?_, fun s _ hrej => ?_⟩
  · obtain ⟨e, he⟩ := decode_reservedMask hm
    exact step_illegal ht hc he
  · refine ⟨_, execClrStatus_eq 0x01 s, by simp [maskBit], by simp [maskBit, hrej], ?_⟩
    exact (statusWord_getLsbD _ 2).trans (by simp [maskBit, hrej])

/-! ### Samples -/

/-- Settles O6: each word is, as a literal, the encoding of its well-formed command. -/
theorem sampleWordsDecode : Obligations.SampleWordsDecode := by
  exact ⟨decodeOfEncode .nop rfl, decodeOfEncode .crcInit rfl, decodeOfEncode (.crcUpdate 0x31) rfl,
    decodeOfEncode (.rxPush 0xAA) rfl, decodeOfEncode .rxClear rfl, decodeOfEncode (.txPush 0xC8) rfl,
    decodeOfEncode .txCommit rfl, decodeOfEncode .txAbort rfl, decodeOfEncode (.clrStatus 0x05) rfl⟩

/-- Settles O7: the lines are read by the assembler itself. -/
theorem sampleLinesAssemble : Obligations.SampleLinesAssemble := by
  unfold Obligations.SampleLinesAssemble
  decide

end Sys2Proof.Machine
end

section
/-! PROOFS. The wire format of a frame (30_encoding.md R80, R81), and the pseudo-instructions run through decoder, command
port and step (R94; 41_encoder.md R121, R122, R125; 44_control.md R191). -/

namespace Sys2Proof.Machine

/-! ### The frame (R80, R81) -/

/-- The two bytes of a big-endian field are its value to the base 256. -/
theorem beBytes_value (v : Word) : (v.extractLsb' 8 8).toNat * 256 + (v.extractLsb' 0 8).toNat = v.toNat := by
  have hv := v.isLt
  simp [Nat.shiftRight_eq_div_pow]
  omega

theorem byteAt_frameOf_two (P : List Byte) : byteAt (frameOf P) 2 = (BitVec.ofNat 16 P.length).extractLsb' 8 8 := rfl

theorem byteAt_frameOf_three (P : List Byte) : byteAt (frameOf P) 3 = (BitVec.ofNat 16 P.length).extractLsb' 0 8 := rfl

theorem slice_frameOf_payload (P : List Byte) : slice (frameOf P) 4 (4 + P.length) = P :=
  slice_middle ([Config.marker, Config.marker] ++ lengthField P) P (beBytes (frameCrc P))

/-- The bytes that the checksum covers: length field and payload. -/
theorem slice_frameOf_checked (P : List Byte) : slice (frameOf P) 2 (4 + P.length) = lengthField P ++ P := by
  have hmid := slice_middle [Config.marker, Config.marker] (lengthField P ++ P) (beBytes (frameCrc P))
  rw [List.length_append, lengthField_length, ← Nat.add_assoc] at hmid
  rwa [frameOf, List.append_assoc [_, _]]

theorem drop_frameOf (P : List Byte) : (frameOf P).drop (4 + P.length) = beBytes (frameCrc P) :=
  List.drop_left' (by simp; omega)

/-- Settles O31: the fields of `frameOf`, one by one. -/
theorem frameHasWireFormat : Obligations.FrameHasWireFormat := by
  intro P hP
  refine ⟨frameOf_length P, rfl, ?_, slice_frameOf_payload P, ?_⟩
  · rw [byteAt_frameOf_two, byteAt_frameOf_three, beBytes_value, BitVec.toNat_ofNat]
    omega
  · rw [drop_frameOf, slice_frameOf_checked]
    rfl

/-! ### Commands that the host offers one after the other (R191) -/

/-- A command neither reads nor writes what the host still has to offer. -/
theorem exec_offering (i : Instr) (ws : List Word) (s : State) :
    exec i (offering ws s) = mapNext (offering ws) (exec i s) := by
  cases i with
  | rxPush b =>
    cases hf : evqFull s with
    | true => rw [exec, exec, execRxPush_of_full hf, execRxPush_of_full (s := offering ws s) hf, mapNext]
    | false =>
      rw [exec, exec, execRxPush_of_room hf, execRxPush_of_room (s := offering ws s) hf, mapNext, offering,
        acceptByte_withAgents, offering, acceptByte_frame b s]
  | txPush b =>
    rw [exec, exec, execTxPush, execTxPush, offering_txOvf, offering_txb]
    cases s.txOvf with
    | true => rfl
    | false =>
      by_cases hl : s.txb.length = Config.maxPayload
      · simp only [hl, if_true]
        rfl
      · simp only [hl, if_false]
        rfl
  | txCommit =>
    have hroom : ∀ F, txqLacksRoom F (offering ws s) = txqLacksRoom F s := fun _ => rfl
    rw [exec, exec, execTxCommit, execTxCommit, offering_txOvf, offering_txb]
    simp only [hroom]
    cases s.txOvf with
    | true => rfl
    | false =>
      match encodeFrame s.txb with
      | none => rfl
      | some F =>
        dsimp only
        cases txqLacksRoom F s <;> rfl
  | clrStatus m => simp only [exec, execClrStatus_eq]; rfl
  | _ => rfl

/-- The host's turn with the word of a command that is not held performs the command. -/
theorem step_command {i : Instr} {s : State} {w : Word} {ws : List Word} {ts : List Turn} (ht : s.turns = .command :: ts)
    (hc : s.cmds = w :: ws) (hd : decode w = .ok i) (hh : held i s = false) :
    step s = exec i { s with turns := ts, cmds := ws } := by
  have hheld : ∀ cs, held i { s with turns := ts, cmds := cs } = false :=
    fun cs => (held_congr i rfl rfl rfl rfl rfl).trans hh
  simp [step_turn ht, runTurn, offerCommand, hc, hd, hheld]

/-- One step of a host that offers a command which is performed and answers t. -/
theorem step_offering {i : Instr} {s t : State} (hi : i.wellFormed = true) (hh : held i s = false)
    (h : exec i s = .next t) (ws : List Word) : step (offering (encode i :: ws) s) = .next (offering ws t) := by
  have hheld : held i (offering (encode i :: ws) s) = false := (held_congr i rfl rfl rfl rfl rfl).trans hh
  have hexec : exec i (offering ws s) = .next (offering ws t) := by rw [exec_offering, h, mapNext]
  exact (step_command rfl rfl (decodeOfEncode i hi) hheld).trans hexec

/-- Settles O48: each push that EVQ does not stop is one step of the host. -/
theorem feedRunsAsPushes : Obligations.FeedRunsAsPushes := by
  intro bs
  induction bs with
  | nil =>
    intro s t h
    cases h
    rfl
  | cons b bs ih =>
    intro s t h
    cases hf : evqFull s with
    | true => simp [pushAll, held, rxPushHeld, hf] at h
    | false =>
      simp only [pushAll, held, rxPushHeld, hf, exec, execRxPush_of_room hf] at h
      exact (run_succ_next (step_offering (i := .rxPush b) rfl hf (execRxPush_of_room hf) _)).trans (ih _ t h)

/-! ### TX_SEND (R94) -/

/-- What the pushes of P leave of an empty payload buffer: at most 65535 bytes, and the overflow flag (R121). -/
def withPushed (P : List Byte) (s : State) : State :=
  { s with txb := P.take Config.maxPayload, txOvf := decide (Config.maxPayload < P.length) }

theorem withPushed_of_le {P : List Byte} (h : P.length ≤ 65535) (s : State) :
    withPushed P s = { s with txb := P, txOvf := false } := by
  simp [withPushed, Config.maxPayload, List.take_of_length_le h, Nat.not_lt.2 h]

theorem withPushed_of_gt {P : List Byte} (h : 65535 < P.length) (s : State) :
    withPushed P s = { s with txb := P.take 65535, txOvf := true } := by
  simp [withPushed, Config.maxPayload, h]

theorem exec_txPush_withPushed (P : List Byte) (b : Byte) (s : State) :
    exec (.txPush b) (withPushed P s) = .next (withPushed (P ++ [b]) s) := by
  rcases lt_trichotomy P.length 65535 with h | h | h
  · rw [withPushed_of_le h.le, withPushed_of_le (by simpa using h), exec_txPush_append b rfl h.ne]
  · rw [withPushed_of_le h.le, withPushed_of_gt (by simp [h])]
    simp [exec, execTxPush, Config.maxPayload, h, raise]
  · rw [withPushed_of_gt h, withPushed_of_gt (by simp; omega), List.take_append_of_le_length h.le]
    rfl

theorem run_txPushes (P Q : List Byte) (ws : List Word) (s : State) :
    run Q.length (offering ((Q.map .txPush).map encode ++ ws) (withPushed P s)) =
      .next (offering ws (withPushed (P ++ Q) s)) := by
  induction Q generalizing P with
  | nil => simp [run_zero]
  | cons b Q ih =>
    have hstep := step_offering rfl rfl (exec_txPush_withPushed P b s) ((Q.map .txPush).map encode ++ ws)
    rw [List.append_cons P b Q, ← ih (P ++ [b])]
    exact run_succ_next hstep

/-- TX_SEND is the pushes of its bytes and one step more, which offers the commit. -/
theorem run_txSend {P : List Byte} {s t : State} (hb : s.txb = []) (ho : s.txOvf = false)
    (hh : held .txCommit (withPushed P s) = false) (h : exec .txCommit (withPushed P s) = .next t) :
    run (P.length + 1) (offering (Pseudo.words (.txSend P)) s) = .next t := by
  have hnil : withPushed [] s = s := by
    rw [withPushed_of_le (by simp), ← hb, ← ho]
  have hpushes := run_txPushes [] P [encode .txCommit] s
  rw [hnil, List.nil_append] at hpushes
  rw [Pseudo.words, Pseudo.expand, List.map_append, List.map_singleton, run_add hpushes]
  exact run_succ_next (step_offering rfl hh h [])

/-- Settles O32: the commit of at most 65535 bytes queues their frame, and of more is refused. -/
theorem sendQueuesFrameOrIsRefused : Obligations.SendQueuesFrameOrIsRefused := by
  refine ⟨fun s P hP hb ho hroom => run_txSend hb ho ?_ ?_, fun s P hP hb ho => run_txSend hb ho ?_ ?_⟩
  · rw [withPushed_of_le hP]
    refine Bool.eq_false_iff.2 fun hheld => ?_
    obtain ⟨-, -, hlacks⟩ := (txCommitHeld_iff _).1 hheld
    exact absurd hroom (Nat.not_le.2 hlacks)
  · rw [withPushed_of_le hP, exec_txCommit_queue rfl hP hroom, ← hb, ← ho]
  · rw [withPushed_of_gt hP]
    rfl
  · have hreject : exec .txCommit (withPushed P s) = .next { s with txb := [], txOvf := false, txRej := true } := by
      rw [withPushed_of_gt hP]
      rfl
    rw [hreject, ← hb, ← ho]

end Sys2Proof.Machine
end

section
/-! PROOFS. The checksum in its two forms (40_crc.md R102, R103): bit reversal carries the one shift register to the
other, shift by shift and byte by byte. -/

namespace Sys2Proof.Machine

theorem reverse_xor {w : Nat} (a b : BitVec w) : (a ^^^ b).reverse = a.reverse ^^^ b.reverse := by
  apply BitVec.eq_of_getLsbD_eq
  intro i hi
  simp only [BitVec.getLsbD_reverse, BitVec.getLsbD_xor, BitVec.getMsbD_xor]

theorem reverse_shiftLeft {w : Nat} (a : BitVec w) (n : Nat) : (a <<< n).reverse = a.reverse >>> n := by
  apply BitVec.eq_of_getLsbD_eq
  intro i hi
  simp [BitVec.getLsbD_reverse, BitVec.getMsbD_shiftLeft, Nat.add_comm]

/-- The byte enters the unreflected register reversed and at the top, so reversed again it stands at the bottom. -/
theorem reverse_unreflectedByte (b : Byte) : (zext16 b.reverse <<< 8).reverse = zext16 b := by
  rw [reverse_shiftLeft]
  apply BitVec.eq_of_getLsbD_eq
  intro i hi
  simp only [zext16, BitVec.getLsbD_ushiftRight, BitVec.getLsbD_reverse, BitVec.getMsbD_eq_getLsbD, BitVec.getLsbD_setWidth]
  by_cases h : i < 8
  · have hindex : 8 - 1 - (16 - 1 - (8 + i)) = i := by omega
    rw [hindex]
    simp [hi, show 8 + i < 16 by omega, show 15 - (8 + i) < 8 by omega, show 15 - (8 + i) < 16 by omega]
  · rw [BitVec.getLsbD_of_ge b i (by omega)]
    simp [show ¬8 + i < 16 by omega]

theorem crcShift_reverse (m : Word) : crcShift m.reverse = (crcShiftUnreflected m).reverse := by
  have hbit : m.reverse.getLsbD 0 = m.getLsbD 15 := BitVec.getLsbD_reverse
  have hpoly : Config.crcPoly.reverse = Config.crcPolyReflected := by decide
  rw [crcShift, crcShiftUnreflected, hbit, apply_ite BitVec.reverse, reverse_xor, reverse_shiftLeft, hpoly]

/-- What carries one step of g to one step of f carries n steps. -/
theorem repeat_semiconj {α β : Type} {r : α → β} {f : β → β} {g : α → α} (h : ∀ x, f (r x) = r (g x)) (n : Nat)
    (x : α) : Nat.repeat f n (r x) = r (Nat.repeat g n x) := by
  induction n with
  | zero => rfl
  | succ n ih => rw [Nat.repeat, ih, h, Nat.repeat]

theorem crcStep_reverse (m : Word) (b : Byte) : crcStep m.reverse b = (crcStepUnreflected m b).reverse := by
  rw [crcStep, crcStepUnreflected, ← repeat_semiconj crcShift_reverse, reverse_xor, reverse_unreflectedByte]

/-- Settles O28: the register of R102 is, at every byte, the reversal of the register of R103. -/
theorem reflectedEqualsUnreflected : Obligations.ReflectedEqualsUnreflected := by
  intro D
  have hinit : Config.crcInit = (0xFFFF : Word).reverse := by decide
  rw [crc16usb, crcRun, hinit, List.foldl_hom BitVec.reverse crcStep_reverse]
  rfl

end Sys2Proof.Machine
end

section
/-! PROOFS. CRCU (40_crc.md R104 to R109): its two commands, CRC_RESULT_R in every run, and its independence of the
encoder and the synchronizer. -/

namespace Sys2Proof.Machine

/-! ### The commands (R104, R105) -/

/-- A command without operand is illegal with a nonzero IMM (R88). -/
theorem decode_noOperand_error {opc imm : Byte} (hopc : opc ∈ ([0x00, 0x01, 0x11, 0x21, 0x22] : List Byte))
    (himm : imm ≠ 0) : ∃ e, decode (commandWord opc imm) = .error e := by
  refine (decode_error_iff _).2 (.inr (.inl ?_))
  rw [opcField_commandWord, immField_commandWord]
  exact ⟨hopc, himm⟩

/-- CRC_RESULT_R reads 0 when the register has its initial value. -/
theorem crcResult_of_initial {s : State} (h : s.crcState = 0xFFFF) : regValue 0x02 s = 0 := by
  simp [regValue, h, zext32, Config.crcXorOut]

/-- Settles O16: an illegal word of OPC 0x01 sets ILL only. -/
theorem crcInitSetsInitialValue : Obligations.CrcInitSetsInitialValue := by
  have hillegal : ∀ imm : Byte, imm ≠ 0 → ∃ e, decode (commandWord 0x01 imm) = .error e :=
    fun _ => decode_noOperand_error (by decide)
  refine ⟨fun s => ⟨rfl, rfl, crcResult_of_initial rfl⟩, decodeOfEncode .crcInit rfl, hillegal,
    fun s ws ts imm ht hc himm => ?_⟩
  obtain ⟨e, he⟩ := hillegal imm himm
  exact ⟨_, step_illegal ht hc he, rfl⟩

/-- Settles O17: every word of OPC 0x02 is the encoding of a CRC_UPDATE. -/
theorem crcUpdateShiftsByte : Obligations.CrcUpdateShiftsByte :=
  ⟨fun _ _ => ⟨rfl, rfl⟩, fun b => decodeOfEncode (.crcUpdate b) rfl, by decide, by decide, by decide, by decide⟩

/-- Settles O27: the check value by computation, and the initial value as CRC_INIT and RESET leave it. -/
theorem crcCheckValues : Obligations.CrcCheckValues := by
  refine ⟨by decide +kernel, by decide, fun s => ⟨_, rfl, crcResult_of_initial rfl⟩, fun s r ts ht => ?_⟩
  exact ⟨_, step_turn ht, crcResult_of_initial rfl⟩

/-! ### CRC_RESULT_R in every run (R106) -/

/-- After a command the register is the run over the bytes given since the last CRC_INIT. -/
theorem exec_crcState {i : Instr} {s t : State} {D : List Byte} (h : exec i s = .next t)
    (hs : s.crcState = crcRun 0xFFFF D) : t.crcState = crcRun 0xFFFF (crcBytesAfter D (some (.exec i))) := by
  cases i with
  | crcInit =>
    cases h
    rfl
  | crcUpdate b =>
    cases h
    rw [crcBytesAfter, crcRun_append, ← hs]
    rfl
  | _ =>
    obtain ⟨hcrc, -⟩ := exec_writers h
    have hsame : t.crcState = s.crcState := by simpa using hcrc
    exact hsame.trans hs

/-- After a step the register is the run over the bytes given since the last CRC_INIT or RESET. -/
theorem step_crcState {s t : State} {D : List Byte} (h : step s = .next t) (hs : s.crcState = crcRun 0xFFFF D) :
    t.crcState = crcRun 0xFFFF (crcBytesAfter D (performed s)) := by
  rcases step_cases h with ⟨hp, rfl | ⟨_, _, -, rfl⟩⟩ | ⟨i, _, _, _, hp, -, -, -, -, he⟩ | ⟨_, _, _, hp, -, -, rfl⟩ |
    ⟨_, _, hp, -, rfl⟩ | ⟨_, _, _, hp, -, -, rfl⟩ | ⟨_, _, _, hp, -, -, rfl⟩ | ⟨r, _, hp, -, rfl⟩ <;> rw [hp]
  case inr.inl => exact exec_crcState he hs
  case inr.inr.inr.inr.inr.inr => rfl
  all_goals exact hs

theorem regValue_crcResult {s : State} {D : List Byte} (h : s.crcState = crcRun 0xFFFF D) :
    regValue 0x02 s = (crc16usb D).setWidth 32 := by
  rw [crc16usb_eq, ← h]
  rfl

/-- The host offers the CRC_UPDATEs of the bytes of D, and nothing else happens. -/
theorem run_crcUpdates (D : List Byte) (s : State) :
    run D.length (offering (D.map fun b => encode (.crcUpdate b)) s) = .next { s with crcState := crcRun s.crcState D } := by
  induction D generalizing s with
  | nil => rfl
  | cons b D ih => exact (run_succ_next (step_offering rfl rfl rfl _)).trans (ih { s with crcState := crcStep s.crcState b })

/-- CRC_OF is a CRC_INIT and the CRC_UPDATEs of its bytes (R94). -/
theorem run_crcOf (D : List Byte) (s : State) :
    run (1 + D.length) (offering (Pseudo.words (.crcOf D)) s) = .next { s with crcState := crcRun 0xFFFF D } := by
  rw [Nat.add_comm, Pseudo.words, Pseudo.expand, List.map_cons, List.map_map]
  exact (run_succ_next (step_offering rfl rfl rfl _)).trans (run_crcUpdates D { s with crcState := 0xFFFF })

/-- Settles O29: one step in any run, and the two sequences of commands. -/
theorem crcResultIsChecksumOfUpdates : Obligations.CrcResultIsChecksumOfUpdates := by
  refine ⟨fun s => rfl, fun s t D hs h => ⟨step_crcState h hs, regValue_crcResult (step_crcState h hs)⟩,
    fun s D => run_crcOf D s, fun s D hs => ?_⟩
  rw [run_crcUpdates, hs]

/-! ### Independence (R108) -/

/-- What the decode step does not look at or write, the loop does not either. -/
theorem syncLoop_comm {f : State → State} (hrxb : ∀ s, (f s).rxb = s.rxb) (hstep : ∀ s, syncStep (f s) = f (syncStep s))
    (n : Nat) (s : State) : syncLoop n (f s) = f (syncLoop n s) := by
  induction n generalizing s with
  | zero => rfl
  | succ n ih => rw [syncLoop, syncLoop, hrxb, hstep, ih, apply_ite f]

theorem syncStep_withCrcState (c : Word) (s : State) :
    syncStep { s with crcState := c } = { syncStep s with crcState := c } := by
  unfold syncStep
  cases tryDecode s.rxb <;> rfl

theorem acceptByte_withCrcState (b : Byte) (c : Word) (s : State) :
    acceptByte b { s with crcState := c } = { acceptByte b s with crcState := c } :=
  syncLoop_comm (f := fun t => { t with crcState := c }) (fun _ => rfl) (syncStep_withCrcState c) _
    { s with rxb := s.rxb ++ [b] }

theorem execRxPush_withCrcState (b : Byte) (c : Word) (s : State) :
    execRxPush b { s with crcState := c } = mapNext (fun t => { t with crcState := c }) (execRxPush b s) := by
  rw [execRxPush, execRxPush, acceptByte_withCrcState, apply_ite (mapNext _)]
  rfl

theorem execTxPush_withCrcState (b : Byte) (c : Word) (s : State) :
    execTxPush b { s with crcState := c } = mapNext (fun t => { t with crcState := c }) (execTxPush b s) := by
  rw [execTxPush, execTxPush, apply_ite (mapNext _), apply_ite (mapNext _)]
  rfl

theorem execTxCommit_withCrcState (c : Word) (s : State) :
    execTxCommit { s with crcState := c } = mapNext (fun t => { t with crcState := c }) (execTxCommit s) := by
  rw [execTxCommit, execTxCommit, apply_ite (mapNext _)]
  cases encodeFrame s.txb with
  | none => rfl
  | some F =>
    dsimp only
    rw [apply_ite (mapNext _)]
    rfl

/-- Settles O30: the two commands by what they write, and the others command by command. -/
theorem crcuIsIndependent : Obligations.CrcuIsIndependent := by
  refine ⟨fun s => ⟨_, rfl⟩, fun s b => ⟨_, rfl⟩, fun i c s hinit hupdate => ?_⟩
  cases i with
  | crcInit => exact absurd rfl hinit
  | crcUpdate b => exact absurd rfl (hupdate b)
  | rxPush b => exact execRxPush_withCrcState b c s
  | txPush b => exact execTxPush_withCrcState b c s
  | txCommit => exact execTxCommit_withCrcState c s
  | clrStatus m => simp only [exec, execClrStatus_eq, mapNext]
  | nop => rfl
  | rxClear => rfl
  | txAbort => rfl

end Sys2Proof.Machine
end

section
/-! PROOFS. The encoder's commands one by one (41_encoder.md R121 to R123) and the TX sink's pops (R124, R247). -/

namespace Sys2Proof.Machine

/-! ### TX_POP (R124) -/

/-- The sink's turn on an empty TXQ passes. -/
theorem step_txPop_nil {s : State} {ts : List Turn} (ht : s.turns = .txPop :: ts) (hq : s.txq = []) :
    step s = .next { s with turns := ts } := by
  rw [step_turn ht, runTurn, txPop_of_nil (s := { s with turns := ts }) hq]

/-- The sink's turn takes the head of TXQ. -/
theorem step_txPop_cons {s : State} {ts : List Turn} {b : Byte} {rest : List Byte} (ht : s.turns = .txPop :: ts)
    (hq : s.txq = b :: rest) : step s = .next { s with turns := ts, txq := rest, sent := s.sent ++ [b] } := by
  rw [step_turn ht, runTurn, txPop_of_cons (s := { s with turns := ts }) hq]

/-- n turns of the sink take the first n bytes of TXQ, in wire order. -/
theorem run_txPops {n : Nat} {s : State} {ts : List Turn} (ht : s.turns = List.replicate n .txPop ++ ts)
    (hn : n ≤ s.txq.length) :
    run n s = .next { s with turns := ts, txq := s.txq.drop n, sent := s.sent ++ s.txq.take n } := by
  induction n generalizing s with
  | zero =>
    obtain rfl : s.turns = ts := ht
    simp [run_zero]
  | succ n ih =>
    match hq : s.txq with
    | [] => simp [hq] at hn
    | b :: rest =>
      rw [run_succ_next (step_txPop_cons ht hq), ih rfl (by simpa [hq] using hn)]
      simp

/-- Settles O12: one pop at an empty and at a non-empty TXQ, and six pops of a six-byte frame. -/
theorem txPopTakesHead : Obligations.TxPopTakesHead := by
  refine ⟨fun s ts => step_txPop_nil, fun s ts b rest => step_txPop_cons, fun s ts ht hq => ?_⟩
  rw [run_txPops ht (by simp [hq]), hq]
  rfl

/-! ### TX_PUSH and TX_ABORT (R121, R123) -/

/-- Settles O21: TX_PUSH by its three branches; CLR_STATUS writes only the other two flags. -/
theorem txPushAppendsOrOverflows : Obligations.TxPushAppendsOrOverflows := by
  refine ⟨fun b => decodeOfEncode (.txPush b) rfl, fun s b => rfl, fun s b ho => ?_, fun s b ho hl => ?_,
    fun s b ho hl => exec_txPush_append b ho hl, fun s m => ⟨_, execClrStatus_eq m s, rfl⟩, fun s hb ho => ?_⟩
  · simp [exec, execTxPush, ho]
  · simp [exec, execTxPush, ho, hl, Config.maxPayload, raise]
  · exact ⟨_, exec_txPush_append 0xAA ho (by simp [hb]), by simp [hb], by simp [hb, regValue, levelValue]⟩

/-- Settles O24: TX_ABORT has one branch. -/
theorem txAbortDiscardsPayload : Obligations.TxAbortDiscardsPayload :=
  ⟨fun _ => ⟨rfl, rfl⟩, decodeOfEncode .txAbort rfl, fun _ _ => ⟨_, rfl, rfl, rfl⟩⟩

/-! ### TX_COMMIT (R122) -/

/-- The commit of an overflowed payload is refused, whatever room TXQ has. -/
theorem exec_txCommit_reject {s : State} (ho : s.txOvf = true) :
    exec .txCommit s = .next { s with txRej := true, txb := [], txOvf := false } := by
  simp [exec, execTxCommit, ho, rejectCommit, acknowledge, clearTxb, raise]

theorem held_txCommit_eq_false_iff (s : State) : held .txCommit s = false ↔
    (s.txOvf = false → s.txb.length ≤ 65535 → 6 + s.txb.length ≤ s.config.txqCap - s.txq.length) := by
  rw [← Bool.not_eq_true, held, txCommitHeld_iff]
  simp only [not_and, Nat.not_lt]

/-- Into an empty TXQ every frame fits (R9). -/
theorem held_txCommit_of_txq_nil {s : State} (hc : s.config.Legal) (hq : s.txq = []) : held .txCommit s = false := by
  have hcap := hc.txq_fits
  refine (held_txCommit_eq_false_iff s).2 fun _ hl => ?_
  rw [hq, List.length_nil]
  omega

/-- Settles O22: TX_COMMIT by its three branches, and a held one after the pops that empty TXQ. -/
theorem txCommitQueuesFrameOrRejects : Obligations.TxCommitQueuesFrameOrRejects := by
  refine ⟨decodeOfEncode .txCommit rfl, fun s ho => ⟨?_, exec_txCommit_reject ho⟩, fun s ho hl hlacks => ?_,
    fun s ho hl hroom => ⟨?_, exec_txCommit_queue ho hl hroom⟩, fun s hc _ hq => held_txCommit_of_txq_nil hc hq,
    fun s ts hc _ _ ht => ⟨_, run_txPops ht le_rfl, rfl, ?_⟩, fun P hP => ?_, by decide +kernel, by decide +kernel,
    fun s c => execTxCommit_withCrcState c s⟩
  · simp [held_txCommit_eq_false_iff, ho]
  · have hheld : held .txCommit s = true := (txCommitHeld_iff s).2 ⟨ho, hl, hlacks⟩
    exact ⟨hheld, exec_of_held hheld⟩
  · exact (held_txCommit_eq_false_iff s).2 fun _ _ => hroom
  · exact held_txCommit_of_txq_nil hc (by simp)
  · rw [frameOf_length]
    omega

end Sys2Proof.Machine
end

section
/-! PROOFS. Fail closed in every run (41_encoder.md R125): TXB and TX_OVF keep track of the bytes pushed, and only a commit
places bytes in TXQ. -/

namespace Sys2Proof.Machine

/-! ### What the pushed bytes make of TXB and TX_OVF -/

theorem payloadTracked_withPushed (P : List Byte) (s : State) : PayloadTracked P (withPushed P s) := by
  rcases Nat.lt_or_ge 65535 P.length with h | h
  · rw [withPushed_of_gt h]
    exact .inr ⟨h, rfl, rfl⟩
  · rw [withPushed_of_le h]
    exact .inl ⟨h, rfl, rfl⟩

namespace PayloadTracked

variable {P : List Byte} {s t : State}

/-- The pushes of P leave a state that tracks P as it is: it is their result. -/
theorem withPushed_eq (h : PayloadTracked P s) : withPushed P s = s := by
  rcases h with ⟨hl, hb, ho⟩ | ⟨hl, hb, ho⟩
  · rw [withPushed_of_le hl, ← hb, ← ho]
  · rw [withPushed_of_gt hl, ← ho]
    exact congrArg (fun B => { s with txb := B }) hb.symm

/-- Only TXB and TX_OVF are tracked. -/
theorem congr (h : PayloadTracked P s) (hb : t.txb = s.txb) (ho : t.txOvf = s.txOvf) : PayloadTracked P t := by
  unfold PayloadTracked
  rwa [hb, ho]

theorem of_empty (hb : t.txb = []) (ho : t.txOvf = false) : PayloadTracked [] t := .inl ⟨by decide, hb, ho⟩

end PayloadTracked

/-- A performed command keeps track of the bytes pushed. -/
theorem exec_keeps_payloadTracked {i : Instr} {P : List Byte} {s t : State} (hs : PayloadTracked P s)
    (hh : held i s = false) (h : exec i s = .next t) : PayloadTracked (payloadAfter P (some (.exec i))) t := by
  cases i with
  | txPush b =>
    rw [← hs.withPushed_eq, exec_txPush_withPushed] at h
    cases h
    exact payloadTracked_withPushed (P ++ [b]) s
  | txCommit =>
    rcases execTxCommit_cases h with ⟨-, rfl⟩ | ⟨ho, hl, hr, -⟩ | ⟨ho, -, -, rfl⟩
    · exact .of_empty rfl rfl
    · exact absurd ((txCommitHeld_iff s).2 ⟨ho, hl, hr⟩) (Bool.eq_false_iff.1 hh)
    · exact .of_empty rfl ho
  | txAbort =>
    cases h
    exact .of_empty rfl rfl
  | _ =>
    obtain ⟨-, -, -, -, htxb, -⟩ := exec_writers h
    obtain ⟨-, htxOvf, -⟩ := exec_flags hh h
    exact hs.congr (by simpa using htxb) (Bool.eq_iff_iff.2 (by simpa using htxOvf))

/-- A performed TX_COMMIT places the frame of the bytes pushed, or refuses an oversized payload and places nothing. -/
theorem exec_txCommit_of_payloadTracked {P : List Byte} {s t : State} (hs : PayloadTracked P s)
    (hh : held .txCommit s = false) (h : exec .txCommit s = .next t) :
    P.length ≤ 65535 ∧ t.txq = s.txq ++ frameOf P ∨ 65535 < P.length ∧ t.txq = s.txq ∧ t.txRej = true := by
  rcases execTxCommit_cases h with ⟨ho, rfl⟩ | ⟨ho, hl, hr, -⟩ | ⟨ho, -, -, rfl⟩
  · rcases hs with ⟨-, -, ho'⟩ | ⟨hP, -, -⟩
    · cases ho.symm.trans ho'
    · exact .inr ⟨hP, rfl, rfl⟩
  · exact absurd ((txCommitHeld_iff s).2 ⟨ho, hl, hr⟩) (Bool.eq_false_iff.1 hh)
  · rcases hs with ⟨hP, hb, -⟩ | ⟨-, -, ho'⟩
    · exact .inl ⟨hP, hb ▸ rfl⟩
    · cases ho.symm.trans ho'

/-! ### Steps -/

/-- A step that performs a command is that command, not held, with the turn and the word gone. -/
theorem exec_of_performed {i : Instr} {s t : State} (hp : performed s = some (.exec i)) (h : step s = .next t) :
    ∃ ws ts, held i { s with turns := ts, cmds := ws } = false ∧ exec i { s with turns := ts, cmds := ws } = .next t := by
  rcases step_cases h with ⟨hp', -⟩ | ⟨j, _, ws, ts, hp', -, -, -, hh, he⟩ | ⟨_, _, _, hp', -⟩ | ⟨_, _, hp', -⟩ |
    ⟨_, _, _, hp', -⟩ | ⟨_, _, _, hp', -⟩ | ⟨_, _, hp', -⟩ <;> cases hp.symm.trans hp'
  exact ⟨ws, ts, (held_congr i rfl rfl rfl rfl rfl).trans hh, he⟩

/-- Every step keeps track of the bytes pushed since the last TX_COMMIT, TX_ABORT or reset. -/
theorem step_keeps_payloadTracked {P : List Byte} {s t : State} (hs : PayloadTracked P s) (h : step s = .next t) :
    PayloadTracked (payloadAfter P (performed s)) t := by
  rcases step_cases h with ⟨hp, rfl | ⟨_, _, -, rfl⟩⟩ | ⟨i, _, ws, ts, hp, -, -, -, hh, he⟩ | ⟨_, _, _, hp, -, -, rfl⟩ |
    ⟨_, _, hp, -, rfl⟩ | ⟨_, _, _, hp, -, -, rfl⟩ | ⟨_, _, _, hp, -, -, rfl⟩ | ⟨r, _, hp, -, rfl⟩ <;> rw [hp]
  case inr.inl =>
    have hheld := (held_congr (t := { s with turns := ts, cmds := ws }) i rfl rfl rfl rfl rfl).trans hh
    exact exec_keeps_payloadTracked (s := { s with turns := ts, cmds := ws }) (hs.congr rfl rfl) hheld he
  case inr.inr.inr.inr.inr.inr => exact .of_empty rfl rfl
  all_goals exact hs.congr rfl rfl

/-- A step that is no performed TX_COMMIT places no byte in TXQ: at most it takes bytes from the head. -/
theorem step_txq_suffix {s t : State} (hp : performed s ≠ some (.exec .txCommit)) (h : step s = .next t) :
    t.txq <:+ s.txq := by
  rcases step_cases h with ⟨-, rfl | ⟨_, _, -, rfl⟩⟩ | ⟨i, _, _, _, hp', -, -, -, -, he⟩ | ⟨_, _, _, -, -, -, rfl⟩ |
    ⟨_, _, -, -, rfl⟩ | ⟨_, _, _, -, -, -, rfl⟩ | ⟨b, rest, _, -, -, htxq, rfl⟩ | ⟨r, _, -, -, rfl⟩
  case inr.inl =>
    rcases exec_txq he with htxq | ⟨rfl, -⟩
    · exact htxq ▸ List.suffix_rfl
    · exact absurd hp' hp
  case inr.inr.inr.inr.inr.inl => exact htxq ▸ List.suffix_cons b rest
  case inr.inr.inr.inr.inr.inr => exact List.nil_suffix
  all_goals exact List.suffix_rfl

/-- Settles O33: reset pushed nothing, every step keeps track of the bytes pushed, and a commit is made of them. -/
theorem encoderFailsClosed : Obligations.EncoderFailsClosed := by
  refine ⟨fun c => .of_empty rfl rfl, fun s t P hs h =>
    ⟨step_keeps_payloadTracked hs h, fun hp => ?_, fun hp => step_txq_suffix hp h⟩⟩
  obtain ⟨ws, ts, hh, he⟩ := exec_of_performed hp h
  exact exec_txCommit_of_payloadTracked (s := { s with turns := ts, cmds := ws }) (hs.congr rfl rfl) hh he

end Sys2Proof.Machine
end

section
/-! PROOFS. The round trip of a frame (41_encoder.md R126): a frame that lacks bytes waits for more, the last byte completes it,
and a held last push is performed after the consumer's pop (43_synchronizer.md R163). -/

namespace Sys2Proof.Machine

/-! ### The decoder on a frame -/

theorem declaredLength_frameOf (P : List Byte) : declaredLength (frameOf P) = BitVec.ofNat 16 P.length := by
  rw [declaredLength, byteAt_frameOf_two, byteAt_frameOf_three, beWord_of_beBytes]

theorem declaredLength_frameOf_toNat {P : List Byte} (hP : P.length ≤ 65535) :
    (declaredLength (frameOf P)).toNat = P.length := by
  rw [declaredLength_frameOf, BitVec.toNat_ofNat]
  omega

/-- The trailing two bytes of a frame are its checksum. -/
theorem declaredCrc_frameOf (P : List Byte) :
    beWord (byteAt (frameOf P) (4 + P.length)) (byteAt (frameOf P) (5 + P.length)) = frameCrc P := by
  have hbyte : ∀ i, byteAt (frameOf P) (4 + P.length + i) = byteAt (beBytes (frameCrc P)) i := fun i => by
    rw [← byteAt_drop, drop_frameOf]
  rw [show 5 + P.length = 4 + P.length + 1 by omega, hbyte 1, ← Nat.add_zero (4 + P.length), hbyte 0]
  exact beWord_of_beBytes (frameCrc P)

theorem tryDecode_frameOf {P : List Byte} (hP : P.length ≤ 65535) :
    tryDecode (frameOf P) = .valid (BitVec.ofNat 16 P.length) P (frameCrc P) := by
  have hL := declaredLength_frameOf_toNat hP
  rw [tryDecode_candidate rfl (by rw [hL, frameOf_length]), checkCandidate, hL, declaredCrc_frameOf,
    slice_frameOf_payload, slice_frameOf_checked, declaredLength_frameOf]
  exact if_pos rfl

/-- A frame that lacks its last bytes waits for them. -/
theorem quiescent_of_append_eq_frameOf {A X P : List Byte} (hP : P.length ≤ 65535) (hX : X ≠ [])
    (h : A ++ X = frameOf P) : quiescent A = true := by
  rcases Nat.lt_or_ge A.length 6 with hshort | h6
  · exact quiescent_of_short hshort
  · have hm : markerAtHead A = true := by
      rw [← markerAtHead_append A X (by omega), h]
      rfl
    have hL : (declaredLength A).toNat = P.length := by
      rw [← declaredLength_append A X (by omega), h, declaredLength_frameOf_toNat hP]
    have hlen : A.length + X.length = 6 + P.length := by rw [← List.length_append, h, frameOf_length]
    have hpos := List.length_pos_of_ne_nil hX
    exact (quiescent_iff A).2 (tryDecode_waiting hm (by omega))

/-! ### Pushes -/

/-- What is quiescent with more bytes behind it was quiescent without them. -/
theorem quiescent_of_append {A X : List Byte} (h : quiescent (A ++ X) = true) : quiescent A = true := by
  rcases Nat.lt_or_ge A.length 6 with hshort | h6
  · exact quiescent_of_short hshort
  · rcases quiescent_cases h with hlt | ⟨-, hm, hlt⟩ <;> rw [List.length_append] at hlt
    · omega
    · rw [markerAtHead_append A X (by omega)] at hm
      rw [declaredLength_append A X (by omega)] at hlt
      exact (quiescent_iff A).2 (tryDecode_waiting hm (by omega))

theorem pushAll_cons_of_room {b : Byte} {bs : List Byte} {s : State} (hf : evqFull s = false) :
    pushAll (b :: bs) s = pushAll bs (acceptByte b s) := by
  simp [pushAll, held, rxPushHeld, hf, exec, execRxPush_of_room hf]

/-- Bytes that leave RXB quiescent only join its tail. -/
theorem pushAll_of_quiescent {bs : List Byte} {s : State} (hf : evqFull s = false)
    (hq : quiescent (s.rxb ++ bs) = true) : pushAll bs s = some { s with rxb := s.rxb ++ bs } := by
  induction bs generalizing s with
  | nil => simp [pushAll]
  | cons b bs ih =>
    rw [List.append_cons] at hq
    rw [pushAll_cons_of_room hf, acceptByte_of_quiescent (quiescent_of_append hq),
      ih (s := { s with rxb := s.rxb ++ [b] }) hf hq, ← List.append_cons]

/-- Pushes that go through join end to end. -/
theorem pushAll_append {A B : List Byte} {s t : State} (h : pushAll A s = some t) : pushAll (A ++ B) s = pushAll B t := by
  induction A generalizing s with
  | nil =>
    cases h
    rfl
  | cons b A ih =>
    cases hf : evqFull s with
    | true => simp [pushAll, held, rxPushHeld, hf] at h
    | false =>
      rw [pushAll_cons_of_room hf] at h
      rw [List.cons_append, pushAll_cons_of_room hf, ih h]

/-- The last byte of a frame alone in RXB empties it and reports the frame's event. -/
theorem acceptByte_completes_frame {b : Byte} {P : List Byte} {s : State} (hP : P.length ≤ 65535)
    (h : s.rxb ++ [b] = frameOf P) : acceptByte b s = { s with rxb := [], evq := s.evq ++ [frameEvent P] } := by
  have hq := quiescent_of_append_eq_frameOf hP (by simp) h
  rcases acceptByte_cases b hq with ⟨hb, -⟩ | ⟨-, he⟩
  · rw [h, quiescent_iff, tryDecode_frameOf hP] at hb
    cases hb
  · rw [he, h, syncStep, tryDecode_frameOf hP]
    have hL : 6 + (BitVec.ofNat 16 P.length).toNat = (frameOf P).length := by
      rw [frameOf_length, ← declaredLength_frameOf, declaredLength_frameOf_toNat hP]
    simp only [hL, dropRx, List.drop_length]
    rfl

/-- The bytes of a frame pushed into an empty RXB give its event. -/
theorem pushAll_frameOf {P : List Byte} {s : State} (hP : P.length ≤ 65535) (hrxb : s.rxb = [])
    (hf : evqFull s = false) : pushAll (frameOf P) s = some { s with evq := s.evq ++ [frameEvent P] } := by
  obtain ⟨A, b, hA⟩ := (List.eq_nil_or_concat' (frameOf P)).resolve_left (frameOf_ne_nil P)
  have hq := quiescent_of_append_eq_frameOf hP (by simp) hA.symm
  have hpart : pushAll A s = some { s with rxb := A } := by
    rw [pushAll_of_quiescent hf (by rwa [hrxb]), hrxb, List.nil_append]
  rw [hA, pushAll_append hpart, pushAll_cons_of_room (s := { s with rxb := A }) hf,
    acceptByte_completes_frame hP hA.symm, pushAll, ← hrxb]

/-! ### A held push (R163) -/

/-- The turn of a held word passes, and the word stays outstanding (R191). -/
theorem step_held {i : Instr} {s : State} {w : Word} {ws : List Word} {ts : List Turn} (ht : s.turns = .command :: ts)
    (hc : s.cmds = w :: ws) (hd : decode w = .ok i) (hh : held i s = true) : step s = .next { s with turns := ts } := by
  have hheld : ∀ cs, held i { s with turns := ts, cmds := cs } = true :=
    fun cs => (held_congr i rfl rfl rfl rfl rfl).trans hh
  simp [step_turn ht, runTurn, offerCommand, hc, hd, hheld, hold]

/-- The consumer's turn takes the oldest event. -/
theorem step_evtPop_cons {s : State} {ts : List Turn} {e : Event} {rest : List Event} (ht : s.turns = .evtPop :: ts)
    (he : s.evq = e :: rest) : step s = .next { s with turns := ts, evq := rest, taken := s.taken ++ [e] } := by
  rw [step_turn ht, runTurn, evtPop_of_cons (s := { s with turns := ts }) he]

section
variable {s : State} {b : Byte} {ws : List Word} {ts : List Turn} {e : Event} {rest : List Event}

/-- On a full EVQ the turn of an RX_PUSH passes. -/
theorem step_heldPush (ht : s.turns = .command :: ts) (hc : s.cmds = encode (.rxPush b) :: ws)
    (hfull : s.evq.length = s.config.evqCap) : step s = .next { s with turns := ts } :=
  step_held ht hc (decodeOfEncode (.rxPush b) rfl) ((evqFull_iff s).2 hfull)

/-- A pop on a full EVQ makes room. -/
theorem evqFull_of_popped (he : s.evq = e :: rest) (hfull : s.evq.length = s.config.evqCap) :
    evqFull { s with evq := rest } = false := by
  rw [he, List.length_cons] at hfull
  simp only [evqFull, beq_eq_false_iff_ne]
  omega

/-- A held RX_PUSH is performed after a pop of the consumer. -/
theorem run_heldPush_released (ht : s.turns = [.command, .evtPop, .command] ++ ts)
    (hc : s.cmds = encode (.rxPush b) :: ws) (he : s.evq = e :: rest) (hfull : s.evq.length = s.config.evqCap) :
    run 3 s = .next (acceptByte b { s with turns := ts, cmds := ws, evq := rest, taken := s.taken ++ [e] }) := by
  have hroom : evqFull { s with evq := rest } = false := evqFull_of_popped he hfull
  have hpush : step { s with turns := .command :: ts, evq := rest, taken := s.taken ++ [e] } =
      exec (.rxPush b) { s with turns := ts, cmds := ws, evq := rest, taken := s.taken ++ [e] } :=
    step_command rfl hc (decodeOfEncode (.rxPush b) rfl) hroom
  calc run 3 s
    _ = run 2 { s with turns := [.evtPop, .command] ++ ts } := run_succ_next (step_heldPush ht hc hfull)
    _ = run 1 { s with turns := .command :: ts, evq := rest, taken := s.taken ++ [e] } :=
      run_succ_next (step_evtPop_cons rfl he)
    _ = .next (acceptByte b { s with turns := ts, cmds := ws, evq := rest, taken := s.taken ++ [e] }) :=
      run_succ_next (hpush.trans (execRxPush_of_room hroom))

end

/-- Settles O44: the pushes of a whole frame, and a last push that waits for the consumer. -/
theorem encodedFrameRoundTrips : Obligations.EncodedFrameRoundTrips := by
  refine ⟨fun s P hP hrxb hroom => pushAll_frameOf hP hrxb ?_, fun s P b ws ts e rest hP hF ht hc he hfull => ⟨?_, ?_⟩⟩
  · exact Bool.eq_false_iff.2 fun hfull => hroom ((evqFull_iff s).1 hfull)
  · exact run_succ_next (step_heldPush ht hc hfull)
  · rw [run_heldPush_released ht hc he hfull]
    exact congrArg _ (acceptByte_completes_frame hP hF)

end Sys2Proof.Machine
end

section
/-! PROOFS. The single-frame decoder over every buffer (42_decoder.md R141, R143 to R145): its outcome by what the buffer holds,
and what bytes behind the candidate leave of it. -/

namespace Sys2Proof.Machine

/-! ### The branches of the decoder (R141, R143) -/

theorem markerAtHead_iff (B : List Byte) : markerAtHead B = true ↔ byteAt B 0 = 0xAA ∧ byteAt B 1 = 0xAA := by
  simp [markerAtHead, Config.marker]

theorem markerAtHead_eq_false_iff (B : List Byte) : markerAtHead B = false ↔ byteAt B 0 ≠ 0xAA ∨ byteAt B 1 ≠ 0xAA := by
  rw [← Bool.not_eq_true, markerAtHead_iff, Decidable.not_and_iff_or_not]

theorem checkCandidate_of_eq {B : List Byte} {L : Word}
    (h : beWord (byteAt B (4 + L.toNat)) (byteAt B (5 + L.toNat)) = crc16usb (slice B 2 (4 + L.toNat))) :
    checkCandidate B L =
      .valid L (slice B 4 (4 + L.toNat)) (beWord (byteAt B (4 + L.toNat)) (byteAt B (5 + L.toNat))) :=
  if_pos h

theorem checkCandidate_of_ne {B : List Byte} {L : Word}
    (h : beWord (byteAt B (4 + L.toNat)) (byteAt B (5 + L.toNat)) ≠ crc16usb (slice B 2 (4 + L.toNat))) :
    checkCandidate B L =
      .invalid L (slice B 4 (4 + L.toNat)) (beWord (byteAt B (4 + L.toNat)) (byteAt B (5 + L.toNat)))
        (crc16usb (slice B 2 (4 + L.toNat))) :=
  if_neg h

theorem markerAtHead_of_valid {B P : List Byte} {L D : Word} (h : tryDecode B = .valid L P D) : markerAtHead B = true := by
  by_contra hm
  obtain ⟨hlen, -⟩ := tryDecode_valid h
  cases h.symm.trans (tryDecode_notAligned (by omega) (Bool.eq_false_iff.2 hm))

/-! ### Bytes behind the candidate (R145) -/

theorem checkCandidate_append (B X : List Byte) (L : Word) (h : 6 + L.toNat ≤ B.length) :
    checkCandidate (B ++ X) L = checkCandidate B L := by
  simp only [checkCandidate, slice_append_left B X _ (4 + L.toNat) (by omega),
    byteAt_append_left B X (4 + L.toNat) (by omega), byteAt_append_left B X (5 + L.toNat) (by omega)]

/-- A decided outcome rests on bytes that appending leaves where they are. -/
theorem tryDecode_append {B : List Byte} (X : List Byte) (h : tryDecode B ≠ .incomplete) :
    tryDecode (B ++ X) = tryDecode B := by
  rcases tryDecode_cases B with ⟨-, hB⟩ | ⟨h6, hm, hB⟩ | ⟨-, -, -, hB⟩ | ⟨hm, hlen, hB⟩
  · exact absurd hB h
  · rw [hB, tryDecode_notAligned (by rw [List.length_append]; omega) (by rwa [markerAtHead_append B X (by omega)])]
  · exact absurd hB h
  · have hL := declaredLength_append B X (by omega)
    have hm' := markerAtHead_append B X (by omega)
    rw [hB, tryDecode_candidate (hm'.trans hm) (by rw [hL, List.length_append]; omega), hL,
      checkCandidate_append B X _ hlen]

/-- Settles O34: the second sentence is the first one turned round. -/
theorem decodeIsPrefixStable : Obligations.DecodeIsPrefixStable :=
  ⟨fun _ X h => tryDecode_append X h, fun _ X h => by_contra fun hB => hB ((tryDecode_append X hB).symm.trans h)⟩

/-- A frame decodes to its own payload, whatever follows it (R144). -/
theorem tryDecode_frameOf_append {P : List Byte} (X : List Byte) (hP : P.length ≤ 65535) :
    tryDecode (frameOf P ++ X) = .valid (BitVec.ofNat 16 P.length) P (frameCrc P) := by
  have hF := tryDecode_frameOf hP
  rw [tryDecode_append X (by simp [hF]), hF]

/-- Settles O36: one branch of the decoder after the other, then the frame. -/
theorem validExactlyWhenChecksumMatches : Obligations.ValidExactlyWhenChecksumMatches := by
  refine ⟨fun B => tryDecode_short, fun B h6 hm => tryDecode_notAligned h6 ((markerAtHead_eq_false_iff B).2 hm),
    fun B _ h0 h1 hlen => tryDecode_waiting ((markerAtHead_iff B).2 ⟨h0, h1⟩) hlen, ?_,
    fun P X hP => tryDecode_frameOf_append X hP, by decide +kernel, by decide +kernel⟩
  rintro B L D K P h0 h1 rfl hlen rfl rfl rfl
  have hB := tryDecode_candidate ((markerAtHead_iff B).2 ⟨h0, h1⟩) hlen
  refine ⟨fun h => hB.trans (checkCandidate_of_eq h), fun h => hB.trans (checkCandidate_of_ne h), fun ⟨L, P, D, hv⟩ => ?_,
    fun h => ⟨_, _, _, hB.trans (checkCandidate_of_eq h)⟩⟩
  by_contra hne
  cases hv.symm.trans (hB.trans (checkCandidate_of_ne hne))

end Sys2Proof.Machine
end

section
/-! PROOFS. What a flipped bit makes of the decoder's outcome (42_decoder.md R147, R148; 90_conflicts.md C3). The checksum tells any
two byte sequences apart that differ in one byte, because the register loses nothing on the way; so what holds of a flipped bit
holds of a changed byte, and is proved of that. -/

namespace Sys2Proof.Machine

/-! ### The checksum detects a changed byte (R101, R102) -/

/-- The shift is linear and sends only 0 to 0. -/
theorem crcShift_injective : Function.Injective crcShift := by
  intro a b h
  have hxor : crcShift (a ^^^ b) = 0 := by rw [crcShift_xor, h, BitVec.xor_self]; rfl
  exact BitVec.xor_eq_zero_iff.1 (crcShift_eq_zero hxor)

theorem repeat_injective {α : Type} {f : α → α} (hf : Function.Injective f) (n : Nat) :
    Function.Injective (Nat.repeat f n) := by
  induction n with
  | zero => exact Function.injective_id
  | succ n ih => exact hf.comp ih

theorem zext16_injective : Function.Injective zext16 := by
  intro a b h
  simpa [zext16] using congrArg (BitVec.setWidth 8) h

theorem crcStep_left_injective (b : Byte) : Function.Injective fun s => crcStep s b :=
  fun _ _ h => (BitVec.xor_left_inj _).1 (repeat_injective crcShift_injective 8 h)

theorem crcStep_right_injective (s : Word) : Function.Injective (crcStep s) :=
  fun _ _ h => zext16_injective ((BitVec.xor_right_inj _).1 (repeat_injective crcShift_injective 8 h))

theorem crcRun_left_injective (D : List Byte) : Function.Injective fun s => crcRun s D := by
  induction D with
  | nil => exact Function.injective_id
  | cons b D ih => exact ih.comp (crcStep_left_injective b)

/-- The byte that differs gives two registers, and the bytes behind it keep them apart. -/
theorem crc16usb_ne_of_byte_ne (A D : List Byte) {b c : Byte} (h : b ≠ c) :
    crc16usb (A ++ b :: D) ≠ crc16usb (A ++ c :: D) := by
  intro heq
  rw [crc16usb, crc16usb, BitVec.xor_left_inj, crcRun_append, crcRun_append] at heq
  exact h (crcStep_right_injective _ (crcRun_left_injective D heq))

theorem crc16usb_set_ne {D : List Byte} {k : Nat} {b : Byte} (hk : k < D.length) (hb : b ≠ byteAt D k) :
    crc16usb (D.set k b) ≠ crc16usb D := by
  rw [byteAt_eq_getElem D k hk] at hb
  have hne := crc16usb_ne_of_byte_ne (D.take k) (D.drop (k + 1)) hb
  rwa [List.cons_getElem_drop_succ, List.take_append_drop, ← List.set_eq_take_cons_drop b hk] at hne

/-! ### A buffer with one byte changed -/

theorem byteAt_set_self {B : List Byte} {k : Nat} {b : Byte} (h : k < B.length) : byteAt (B.set k b) k = b := by
  simp [byteAt, h]

theorem byteAt_set_of_ne (B : List Byte) {i k : Nat} (b : Byte) (h : k ≠ i) : byteAt (B.set k b) i = byteAt B i := by
  simp [byteAt, List.getD, List.getElem?_set_ne h]

theorem slice_set (B : List Byte) {i k : Nat} (n : Nat) (b : Byte) (h : i ≤ k) :
    slice (B.set k b) i n = (slice B i n).set (k - i) b := by
  rw [slice, slice, List.drop_set, if_neg (by omega), List.take_set]

theorem byteAt_slice (B : List Byte) {i n k : Nat} (hi : i ≤ k) (hn : k < n) : byteAt (slice B i n) (k - i) = byteAt B k := by
  have hk : i + (k - i) = k := by omega
  simp [byteAt, List.getD, slice, show k - i < n - i by omega, hk]

theorem flippedByte_ne (b : Byte) {j : Nat} (hj : j < 8) : b ^^^ (1#8 <<< j) ≠ b := by
  have hbit : ∀ i < 8, 1#8 <<< i ≠ 0#8 := by decide
  intro h
  rw [← BitVec.xor_zero (x := b), BitVec.xor_assoc, BitVec.xor_right_inj, BitVec.zero_xor] at h
  exact hbit j hj h

/-- The wire order of R82 joins two bytes as a command word joins its fields (R84). -/
theorem beWord_eq_commandWord (hi lo : Byte) : beWord hi lo = commandWord hi lo := by
  have hround : beWord (opcField (commandWord hi lo)) (immField (commandWord hi lo)) = commandWord hi lo :=
    beWord_of_beBytes _
  rwa [opcField_commandWord, immField_commandWord] at hround

theorem beWord_inj {hi lo hi' lo' : Byte} : beWord hi lo = beWord hi' lo' ↔ hi = hi' ∧ lo = lo' := by
  rw [beWord_eq_commandWord, beWord_eq_commandWord, commandWord_inj]

/-! ### Payload and checksum field (R147) -/

/-- One byte changed in the checked range or in the checksum field: a checksum that matched matches no more. -/
theorem checksum_ne_of_set {B : List Byte} {n k : Nat} {b : Byte} (hlen : 6 + n ≤ B.length)
    (h : beWord (byteAt B (4 + n)) (byteAt B (5 + n)) = crc16usb (slice B 2 (4 + n))) (h2 : 2 ≤ k) (hk : k < 6 + n)
    (hb : b ≠ byteAt B k) :
    beWord (byteAt (B.set k b) (4 + n)) (byteAt (B.set k b) (5 + n)) ≠ crc16usb (slice (B.set k b) 2 (4 + n)) := by
  have hchecked := slice_length B 2 (4 + n) (by omega)
  rw [slice_set B _ b h2]
  rcases Nat.lt_or_ge k (4 + n) with hin | hfield
  · rw [byteAt_set_of_ne B b (by omega), byteAt_set_of_ne B b (by omega), h]
    exact (crc16usb_set_ne (by omega) (by rwa [byteAt_slice B h2 hin])).symm
  · have hout : (slice B 2 (4 + n)).length ≤ k - 2 := by omega
    rw [List.set_eq_of_length_le hout, ← h, Ne, beWord_inj]
    rintro ⟨hhi, hlo⟩
    obtain rfl | rfl : k = 4 + n ∨ k = 5 + n := by omega
    · exact hb ((byteAt_set_self (by omega)).symm.trans hhi)
    · exact hb ((byteAt_set_self (by omega)).symm.trans hlo)

/-- A Valid candidate with one byte changed in its payload or its checksum field is Invalid, of the same length. -/
theorem tryDecode_set_of_valid {B P : List Byte} {L D : Word} {k : Nat} {b : Byte} (h : tryDecode B = .valid L P D)
    (h4 : 4 ≤ k) (hk : k < 6 + L.toNat) (hb : b ≠ byteAt B k) :
    ∃ P' D' K, tryDecode (B.set k b) = .invalid L P' D' K := by
  obtain ⟨hlen, hL, -, -, hD, hK⟩ := tryDecode_valid h
  have hm : markerAtHead (B.set k b) = true := by
    rw [markerAtHead, byteAt_set_of_ne B b (by omega), byteAt_set_of_ne B b (by omega)]
    exact markerAtHead_of_valid h
  have hL' : declaredLength (B.set k b) = L := by
    rw [hL, declaredLength, byteAt_set_of_ne B b (by omega), byteAt_set_of_ne B b (by omega), declaredLength]
  have hne := checksum_ne_of_set hlen (hD.symm.trans hK) (by omega) hk hb
  have hB := tryDecode_candidate hm (by rwa [hL', List.length_set])
  rw [hL', checkCandidate_of_ne hne] at hB
  exact ⟨_, _, _, hB⟩

/-- Settles O37: a frame is Valid and a flipped bit changes its byte; the frame of 4F FE is the length field's exception. -/
theorem singleBitErrorGivesInvalid : Obligations.SingleBitErrorGivesInvalid := by
  refine ⟨fun P k j hP h4 hk hj => ?_, [0x4F, 0xFE], 0, [], 0x4FFE, by decide +kernel⟩
  refine tryDecode_set_of_valid (tryDecode_frameOf hP) h4 ?_ (flippedByte_ne _ hj)
  rwa [← declaredLength_frameOf, declaredLength_frameOf_toNat hP]

/-! ### The marker (R148) -/

theorem markerAtHead_set {B : List Byte} {k : Nat} {b : Byte} (hlen : 2 ≤ B.length) (hm : markerAtHead B = true)
    (hk : k < 2) (hb : b ≠ byteAt B k) : markerAtHead (B.set k b) = false := by
  obtain ⟨h0, h1⟩ := (markerAtHead_iff B).1 hm
  rw [markerAtHead_eq_false_iff]
  obtain rfl | rfl : k = 0 ∨ k = 1 := by omega
  · exact .inl (by rwa [byteAt_set_self (by omega), ← h0])
  · exact .inr (by rwa [byteAt_set_self (by omega), ← h1])

/-- Settles O38: a flipped bit changes its byte, and the marker is one value of both bytes. -/
theorem markerFlipGivesNotAligned : Obligations.MarkerFlipGivesNotAligned := by
  intro B k j h6 hm hk hj
  have hlen : 6 ≤ (flipBit B k j).length := h6.trans_eq List.length_set.symm
  exact tryDecode_notAligned hlen (markerAtHead_set (by omega) hm hk (flippedByte_ne _ hj))

end Sys2Proof.Machine
end

section
/-! PROOFS. The decode loop (43_synchronizer.md R160, R161): what a possible decode step does, that it removes a byte, and that
the loop ends where no step is possible; the count of discarded bytes (R166). -/

namespace Sys2Proof.Machine

/-! ### The loop ends (R161) -/

/-- A decode step that is possible discards one byte before a head that is no marker, or takes a whole candidate and reports it. -/
theorem syncStep_cases_of_not_quiescent {s : State} (h : quiescent s.rxb = false) :
    (6 ≤ s.rxb.length ∧ markerAtHead s.rxb = false ∧
      syncStep s = { s with rxb := s.rxb.drop 1, resyncCount := satInc32 s.resyncCount }) ∨
    (markerAtHead s.rxb = true ∧ 6 + (declaredLength s.rxb).toNat ≤ s.rxb.length ∧ ∃ e : Event,
      e.length = declaredLength s.rxb ∧
      syncStep s = { s with rxb := s.rxb.drop (6 + (declaredLength s.rxb).toNat), evq := s.evq ++ [e] }) := by
  have hhead : ∀ {o}, tryDecode s.rxb = o → o ≠ .notAligned → o ≠ .incomplete → markerAtHead s.rxb = true := by
    intro o ho hn hi
    obtain ⟨hlen, -⟩ := tryDecode_complete ho hi hn
    by_contra hm
    exact hn (ho.symm.trans (tryDecode_notAligned (by omega) (Bool.eq_false_iff.2 hm)))
  rcases syncStep_cases s with ⟨hd, -⟩ | ⟨hd, he⟩ | ⟨L, P, D, hd, he⟩ | ⟨L, P, D, K, hd, he⟩
  · exact absurd ((quiescent_iff _).2 hd) (Bool.eq_false_iff.1 h)
  · obtain ⟨h6, hm⟩ := (tryDecode_notAligned_iff _).1 hd
    exact .inl ⟨h6, hm, he⟩
  · obtain ⟨hlen, rfl, -⟩ := tryDecode_valid hd
    exact .inr ⟨hhead hd (by simp) (by simp), hlen, _, rfl, he⟩
  · obtain ⟨hlen, rfl, -⟩ := tryDecode_invalid hd
    exact .inr ⟨hhead hd (by simp) (by simp), hlen, _, rfl, he⟩

/-- Every step that is possible removes at least one byte. -/
theorem syncStep_rxb_length_lt {s : State} (h : quiescent s.rxb = false) : (syncStep s).rxb.length < s.rxb.length := by
  rcases syncStep_cases_of_not_quiescent h with ⟨h6, -, he⟩ | ⟨-, hlen, e, -, he⟩ <;> rw [he, List.length_drop] <;> omega

theorem syncRun_of_quiescent {s : State} (h : quiescent s.rxb = true) : syncRun s = s := syncLoop_stop h

/-- One round more than RXB has bytes changes nothing. -/
theorem syncLoop_succ_of_length_le {n : Nat} {s : State} (h : s.rxb.length ≤ n) : syncLoop (n + 1) s = syncLoop n s := by
  induction n generalizing s with
  | zero => exact syncLoop_stop (quiescent_of_short (by omega))
  | succ n ih =>
    cases hq : quiescent s.rxb with
    | true => rw [syncLoop_stop hq, syncLoop_stop hq]
    | false =>
      have hlt := syncStep_rxb_length_lt hq
      rw [syncLoop_step hq, ih (by omega), ← syncLoop_step hq]

/-- The bound on the rounds is never the reason that the loop ends (log 9): every larger one gives the same. -/
theorem syncLoop_eq_syncRun {n : Nat} {s : State} (h : s.rxb.length ≤ n) : syncLoop n s = syncRun s :=
  Nat.le_induction rfl (fun _ hn ih => (syncLoop_succ_of_length_le hn).trans ih) n h

theorem syncRun_of_not_quiescent {s : State} (h : quiescent s.rxb = false) : syncRun s = syncRun (syncStep s) := by
  have hlt := syncStep_rxb_length_lt h
  obtain ⟨n, hn⟩ := Nat.exists_eq_add_one_of_ne_zero (show s.rxb.length ≠ 0 by omega)
  rw [syncRun, hn, syncLoop_step h, syncLoop_eq_syncRun (by omega)]

/-- The loop's induction: what holds where no step is possible, and goes back over every possible step, holds between a state
and what the loop makes of it. -/
theorem syncRun_induction {p : State → State → Prop} (stop : ∀ s, quiescent s.rxb = true → p s s)
    (step : ∀ s t, quiescent s.rxb = false → p (syncStep s) t → p s t) (s : State) : p s (syncRun s) := by
  induction hn : s.rxb.length using Nat.strong_induction_on generalizing s with
  | _ n ih =>
    cases hq : quiescent s.rxb with
    | true =>
      rw [syncRun_of_quiescent hq]
      exact stop s hq
    | false =>
      rw [syncRun_of_not_quiescent hq]
      exact step s _ hq (ih _ (hn ▸ syncStep_rxb_length_lt hq) _ rfl)

theorem syncRun_quiescent (s : State) : quiescent (syncRun s).rxb = true :=
  syncRun_induction (p := fun _ t => quiescent t.rxb = true) (fun _ h => h) (fun _ _ _ h => h) s

/-- Settles O39: by the loop's induction and its two equations. -/
theorem loopEndsQuiescent : Obligations.LoopEndsQuiescent :=
  ⟨syncRun_quiescent, fun _ => syncRun_of_quiescent,
    fun _ h => ⟨syncRun_of_not_quiescent h, syncStep_rxb_length_lt h⟩, fun _ => quiescent_of_short⟩

/-! ### The count of discarded bytes (R166) -/

theorem satInc32_of_lt {c : RegVal} (h : c.toNat < 0xFFFFFFFF) : satInc32 c = c + 1 := if_pos h

theorem satInc32_of_ge {c : RegVal} (h : 0xFFFFFFFF ≤ c.toNat) : satInc32 c = 0xFFFFFFFF := if_neg (Nat.not_lt.2 h)

theorem satInc32_toNat {c : RegVal} (h : c.toNat < 0xFFFFFFFF) : (satInc32 c).toNat = c.toNat + 1 := by
  rw [satInc32_of_lt h]
  exact BitVec.toNat_add_of_lt (Nat.add_lt_add_right h 1)

theorem satInc32_le_add_one (c : RegVal) : (satInc32 c).toNat ≤ c.toNat + 1 := by
  rcases Nat.lt_or_ge c.toNat 0xFFFFFFFF with h | h
  · exact (satInc32_toNat h).le
  · rw [satInc32_of_ge h]
    exact h.trans (Nat.le_succ _)

theorem satInc32_ne_zero (c : RegVal) : satInc32 c ≠ 0 := by
  rcases Nat.lt_or_ge c.toNat 0xFFFFFFFF with h | h
  · intro h0
    have hpos := satInc32_toNat h
    simp [h0] at hpos
  · rw [satInc32_of_ge h]
    decide

theorem syncStep_of_notAligned {s : State} (h : tryDecode s.rxb = .notAligned) :
    syncStep s = { s with rxb := s.rxb.drop 1, resyncCount := satInc32 s.resyncCount } := by
  simp [syncStep, h, dropRx]

/-- No command lowers the count of discarded bytes. -/
theorem exec_resyncCount_le {i : Instr} {s t : State} (h : exec i s = .next t) :
    s.resyncCount.toNat ≤ t.resyncCount.toNat := by
  by_cases heq : t.resyncCount = s.resyncCount
  · rw [heq]
  obtain ⟨-, -, hpush, -⟩ := exec_writers h
  obtain ⟨b, rfl⟩ := hpush heq
  cases hf : evqFull s with
  | true =>
    cases (execRxPush_of_full hf).symm.trans h
    exact le_rfl
  | false =>
    cases (execRxPush_of_room hf).symm.trans h
    exact acceptByte_resyncCount_le b s

/-- No step but RESET lowers it. -/
theorem step_resyncCount_le {s t : State} (h : step s = .next t) (hr : ∀ r, performed s ≠ some (.reset r)) :
    s.resyncCount.toNat ≤ t.resyncCount.toNat := by
  rcases step_cases h with ⟨-, rfl | ⟨_, _, -, rfl⟩⟩ | ⟨i, _, ws, ts, -, -, -, -, -, he⟩ | ⟨_, _, _, -, -, -, rfl⟩ |
    ⟨_, _, -, -, rfl⟩ | ⟨_, _, _, -, -, -, rfl⟩ | ⟨_, _, _, -, -, -, rfl⟩ | ⟨r, _, hp, -, -⟩
  case inr.inl => exact exec_resyncCount_le (s := { s with turns := ts, cmds := ws }) he
  case inr.inr.inr.inr.inr.inr => exact absurd hp (hr r)
  all_goals exact le_rfl

/-- Settles O40: a value that no step lowers stays at the largest one, and stays positive. -/
theorem resyncCounterSaturates : Obligations.ResyncCounterSaturates := by
  refine ⟨fun c => satInc32_toNat, by decide, satInc32_ne_zero, fun s h => by rw [syncStep_of_notAligned h],
    fun s t h hr => ?_⟩
  have hle := step_resyncCount_le h hr
  refine ⟨hle, fun hmax => ?_, fun hpos h0 => ?_⟩
  · rw [hmax] at hle
    exact BitVec.eq_of_toNat_eq (Nat.le_antisymm (Nat.le_of_lt_succ t.resyncCount.isLt) hle)
  · rw [h0] at hle
    exact absurd hpos (Nat.not_lt.2 hle)

end Sys2Proof.Machine
end

section
/-! PROOFS. One RX_PUSH (43_synchronizer.md R162, R163, R167, R169), and the commands beside it: RX_CLEAR (R164) and the event
consumer's EVT_POP (R165). -/

namespace Sys2Proof.Machine

/-! ### The bound of a quiescent RXB (R169) -/

/-- Settles O43: the two ways to be quiescent, and a length field of 16 bits. -/
theorem quiescentBufferIsBounded : Obligations.QuiescentBufferIsBounded := by
  intro B hq
  have hle := quiescent_length_le hq
  refine ⟨(quiescent_cases hq).imp_right And.right, hle, fun b => ?_⟩
  rw [List.length_append, Config.maxFrame]
  exact Nat.succ_le_succ hle

/-! ### The step of an accepted byte (R162, R167) -/

theorem evqFull_eq_false_iff (s : State) : evqFull s = false ↔ s.evq.length ≠ s.config.evqCap := by
  rw [Ne, ← evqFull_iff, Bool.not_eq_true]

/-- With room in EVQ the push is performed. -/
theorem exec_rxPush_of_room {s : State} (b : Byte) (h : s.evq.length ≠ s.config.evqCap) :
    exec (.rxPush b) s = .next (acceptByte b s) :=
  execRxPush_of_room ((evqFull_eq_false_iff s).2 h)

section
variable {s : State} {b : Byte}

/-- At most one decode step is performed. -/
theorem acceptByte_eq_or (b : Byte) (hq : quiescent s.rxb = true) :
    acceptByte b s = { s with rxb := s.rxb ++ [b] } ∨ acceptByte b s = syncStep { s with rxb := s.rxb ++ [b] } :=
  (acceptByte_cases b hq).imp And.right And.right

/-- At most one event joins EVQ. -/
theorem acceptByte_evq_length_le (b : Byte) (hq : quiescent s.rxb = true) :
    (acceptByte b s).evq.length ≤ s.evq.length + 1 := by
  rcases acceptByte_evq b hq with he | ⟨e, -, he⟩ <;> simp [he]

/-- A sixth byte that leaves no marker at the head discards the head. -/
theorem acceptByte_of_notAligned (h5 : s.rxb.length = 5) (hm : markerAtHead (s.rxb ++ [b]) = false) :
    acceptByte b s = { s with rxb := (s.rxb ++ [b]).drop 1, resyncCount := satInc32 s.resyncCount } := by
  have hd : tryDecode (s.rxb ++ [b]) = .notAligned := tryDecode_notAligned (by simp [h5]) hm
  have hq : quiescent s.rxb = true := quiescent_of_short (by omega)
  rcases acceptByte_cases b hq with ⟨hb, -⟩ | ⟨-, he⟩
  · cases hd.symm.trans ((quiescent_iff _).1 hb)
  · rw [he, syncStep_of_notAligned hd]

/-- The last byte of a candidate empties RXB and reports it. -/
theorem acceptByte_of_complete (hq : quiescent s.rxb = true) (hm : markerAtHead (s.rxb ++ [b]) = true)
    (hl : s.rxb.length + 1 = 6 + (declaredLength (s.rxb ++ [b])).toNat) :
    (acceptByte b s).rxb = [] ∧ (acceptByte b s).evq.length = s.evq.length + 1 := by
  rcases acceptByte_cases b hq with ⟨hb, -⟩ | ⟨hb, he⟩
  · rcases quiescent_cases hb with hlt | ⟨-, -, hlt⟩ <;> rw [List.length_append, List.length_singleton] at hlt <;> omega
  · rcases syncStep_cases_of_not_quiescent (s := { s with rxb := s.rxb ++ [b] }) hb with ⟨-, hm', -⟩ | ⟨-, -, e, -, he'⟩
    · cases hm.symm.trans hm'
    · rw [he, he']
      exact ⟨List.drop_of_length_le (by simp [hl]), by simp⟩

/-- A byte after which the candidate still lacks others only joins RXB. -/
theorem acceptByte_of_waiting (hm : markerAtHead (s.rxb ++ [b]) = true)
    (hl : s.rxb.length + 1 < 6 + (declaredLength (s.rxb ++ [b])).toNat) :
    acceptByte b s = { s with rxb := s.rxb ++ [b] } :=
  acceptByte_of_quiescent ((quiescent_iff _).2 (tryDecode_waiting hm (by simpa using hl)))

end

/-- Settles O41: the three cases of R167 by the length of RXB before the push. -/
theorem pushTakesAtMostOneStep : Obligations.PushTakesAtMostOneStep := by
  intro s b hq hroom
  have hwait : 6 ≤ s.rxb.length → markerAtHead s.rxb = true ∧ s.rxb.length < 6 + (declaredLength s.rxb).toNat := fun h6 =>
    (quiescent_cases hq).resolve_left (Nat.not_lt.2 h6) |>.2
  have hhead : 6 ≤ s.rxb.length → markerAtHead (s.rxb ++ [b]) = true := fun h6 => by
    rw [markerAtHead_append s.rxb [b] (by omega)]
    exact (hwait h6).1
  have hL : 6 ≤ s.rxb.length → declaredLength (s.rxb ++ [b]) = declaredLength s.rxb := fun h6 =>
    declaredLength_append s.rxb [b] (by omega)
  refine ⟨_, exec_rxPush_of_room b hroom, acceptByte_eq_or b hq, acceptByte_quiescent b hq, acceptByte_evq_length_le b hq,
    fun h5 hm => ?_, fun h5 hm h0 => acceptByte_of_complete hq hm (by omega),
    fun h5 hm hpos => acceptByte_of_waiting hm (by omega),
    fun h4 => acceptByte_of_quiescent (quiescent_of_short (by simp; omega)), hwait,
    fun h6 hl => acceptByte_of_waiting (hhead h6) (by rwa [hL h6]),
    fun h6 hl => acceptByte_of_complete hq (hhead h6) (by rwa [hL h6])⟩
  rw [acceptByte_of_notAligned h5 hm]
  exact ⟨by simp [h5], rfl⟩

/-- The event of the example frame of R162. -/
theorem frameEvent_example : frameEvent [0xAA, 0xBB, 0xC8] =
    { kind := .valid, length := 3, payload := [0xAA, 0xBB, 0xC8], declaredCrc := 0xFD88, computedCrc := 0xFD88 } := by
  decide +kernel

/-- Settles O18: the hold, the append with the loop, the one step from a quiescent RXB, and the two examples. -/
theorem rxPushAppendsAndRunsLoop : Obligations.RxPushAppendsAndRunsLoop := by
  refine ⟨fun b => decodeOfEncode (.rxPush b) rfl, fun s b hfull => execRxPush_of_full ((evqFull_iff s).2 hfull),
    fun s b hq hroom => ⟨_, exec_rxPush_of_room b hroom.ne, acceptByte_eq_or b hq, ?_, ?_⟩,
    fun s b hroom => ⟨exec_rxPush_of_room b hroom, _, exec_rxPush_of_room b hroom, acceptByte_frame b s⟩,
    fun s b hroom h5 hm => ?_, fun s hrxb hevq hc => ?_⟩
  · have hle := quiescent_length_le hq
    simp
    omega
  · exact (acceptByte_evq_length_le b hq).trans hroom
  · have hm' : markerAtHead (s.rxb ++ [b]) = false := by rwa [markerAtHead_append s.rxb [b] (by omega)]
    rw [exec_rxPush_of_room b hroom, acceptByte_of_notAligned h5 hm', List.drop_append_of_le_length (by omega)]
  · have hcap := hc.evq_pos
    have hF : s.rxb ++ [0x88] = frameOf [0xAA, 0xBB, 0xC8] := by
      rw [hrxb]
      decide +kernel
    rw [exec_rxPush_of_room 0x88 (by simp [hevq]; omega), acceptByte_completes_frame (by simp) hF, hevq, frameEvent_example]
    rfl

/-! ### A full EVQ (R163, R165) -/

/-- Settles O19: the hold, and a held push before and after the consumer's pop. -/
theorem rxPushHoldsWhileEventQueueFull : Obligations.RxPushHoldsWhileEventQueueFull := by
  refine ⟨fun s b hfull => ?_, fun s b => (evqFull_eq_false_iff s).2, fun s b ws ts e rest ht hc he hfull => ⟨?_, ?_⟩⟩
  · have hheld : held (.rxPush b) s = true := (evqFull_iff s).2 hfull
    exact ⟨hheld, exec_of_held hheld⟩
  · exact run_succ_next (step_heldPush ht hc hfull)
  · have hroom : rest.length ≠ s.config.evqCap := (evqFull_eq_false_iff _).1 (evqFull_of_popped he hfull)
    rw [run_heldPush_released ht hc he hfull]
    exact Eq.symm (exec_rxPush_of_room b hroom)

/-- The consumer's turn on an empty EVQ passes. -/
theorem step_evtPop_nil {s : State} {ts : List Turn} (ht : s.turns = .evtPop :: ts) (he : s.evq = []) :
    step s = .next { s with turns := ts } := by
  rw [step_turn ht, runTurn, evtPop_of_nil (s := { s with turns := ts }) he]

/-- Settles O11: one pop at an empty and at a non-empty EVQ; a full one is not empty, and after the pop not full. -/
theorem eventPopTakesOldest : Obligations.EventPopTakesOldest := by
  refine ⟨fun s ts => step_evtPop_nil, fun s ts e rest => step_evtPop_cons, fun s ts b ht hc hh => ?_⟩
  have hfull : s.evq.length = s.config.evqCap := (evqFull_iff s).1 hh
  have hcap := hc.evq_pos
  obtain ⟨e, rest, he⟩ := List.exists_cons_of_length_pos (l := s.evq) (by omega)
  exact ⟨_, step_evtPop_cons ht he, evqFull_of_popped he hfull⟩

/-! ### RX_CLEAR (R164) -/

/-- Settles O20: RX_CLEAR has one branch, and an empty RXB holds no candidate. -/
theorem rxClearEmptiesReceiveBuffer : Obligations.RxClearEmptiesReceiveBuffer :=
  ⟨fun _ => ⟨rfl, rfl, rfl, rfl, rfl⟩, decodeOfEncode .rxClear rfl⟩

end Sys2Proof.Machine
end

section
/-! PROOFS. Sequences of pushes (43_synchronizer.md R168, R171, R172): the loop after the whole sequence does what the loop after
each byte does. -/

namespace Sys2Proof.Machine

/-! ### The loop and bytes that come behind (R168) -/

/-- The bytes of X at the tail of RXB. -/
def appendRx (X : List Byte) (s : State) : State := { s with rxb := s.rxb ++ X }

@[simp] theorem appendRx_rxb (X : List Byte) (s : State) : (appendRx X s).rxb = s.rxb ++ X := rfl
@[simp] theorem appendRx_resyncCount (X : List Byte) (s : State) : (appendRx X s).resyncCount = s.resyncCount := rfl
@[simp] theorem appendRx_evq (X : List Byte) (s : State) : (appendRx X s).evq = s.evq := rfl

theorem appendRx_nil (s : State) : appendRx [] s = s := by simp [appendRx]

theorem appendRx_append (A X : List Byte) (s : State) : appendRx (A ++ X) s = appendRx X (appendRx A s) := by
  simp [appendRx]

theorem acceptByte_eq_syncRun (b : Byte) (s : State) : acceptByte b s = syncRun (appendRx [b] s) := rfl

theorem dropRx_appendRx {n : Nat} (X : List Byte) {s : State} (h : n ≤ s.rxb.length) :
    dropRx n (appendRx X s) = appendRx X (dropRx n s) := by
  simp [dropRx, appendRx, List.drop_append_of_le_length h]

/-- A step that is possible is the same with more bytes behind. -/
theorem syncStep_appendRx (X : List Byte) {s : State} (h : quiescent s.rxb = false) :
    syncStep (appendRx X s) = appendRx X (syncStep s) := by
  have hd : tryDecode s.rxb ≠ .incomplete := fun hd => Bool.eq_false_iff.1 h ((quiescent_iff _).2 hd)
  have hX : tryDecode (appendRx X s).rxb = tryDecode s.rxb := tryDecode_append X hd
  rw [syncStep, hX, syncStep]
  match hB : tryDecode s.rxb with
  | .incomplete => exact absurd hB hd
  | .notAligned =>
    obtain ⟨h6, -⟩ := (tryDecode_notAligned_iff _).1 hB
    simp only [dropRx_appendRx X (show 1 ≤ s.rxb.length by omega)]
    rfl
  | .valid L P D =>
    obtain ⟨hlen, -⟩ := tryDecode_valid hB
    simp only [dropRx_appendRx X hlen]
    rfl
  | .invalid L P D K =>
    obtain ⟨hlen, -⟩ := tryDecode_invalid hB
    simp only [dropRx_appendRx X hlen]
    rfl

theorem not_quiescent_append (X : List Byte) {B : List Byte} (h : quiescent B = false) : quiescent (B ++ X) = false :=
  Bool.eq_false_iff.2 fun hX => Bool.eq_false_iff.1 h (quiescent_of_append hX)

/-- Bytes may come before the loop or after it: with the loop once more behind them, nothing differs. -/
theorem syncRun_appendRx_syncRun (X : List Byte) (s : State) :
    syncRun (appendRx X (syncRun s)) = syncRun (appendRx X s) := by
  refine syncRun_induction (p := fun s t => syncRun (appendRx X t) = syncRun (appendRx X s)) (fun _ _ => rfl)
    (fun s t hq ih => ?_) s
  rw [ih, ← syncStep_appendRx X hq]
  exact (syncRun_of_not_quiescent (s := appendRx X s) (not_quiescent_append X hq)).symm

/-- Pushing a byte and then the rest is the loop on all of them. -/
theorem syncRun_appendRx_acceptByte (b : Byte) (bs : List Byte) (s : State) :
    syncRun (appendRx bs (acceptByte b s)) = syncRun (appendRx (b :: bs) s) := by
  rw [acceptByte_eq_syncRun, syncRun_appendRx_syncRun, ← appendRx_append, List.singleton_append]

/-- When a push goes through, EVQ was not full before it. -/
theorem evqFull_of_pushAll {bs : List Byte} {s t : State} (hbs : bs ≠ []) (h : pushAll bs s = some t) :
    evqFull s = false := by
  obtain ⟨b, bs, rfl⟩ := List.exists_cons_of_ne_nil hbs
  refine Bool.eq_false_iff.2 fun hf => ?_
  simp [pushAll, held, rxPushHeld, hf] at h

/-- Pushes that EVQ never stops leave what the loop makes of all their bytes. -/
theorem pushAll_eq_syncRun {bs : List Byte} {s t : State} (hq : quiescent s.rxb = true) (h : pushAll bs s = some t) :
    t = syncRun (appendRx bs s) := by
  induction bs generalizing s with
  | nil =>
    cases h
    rw [appendRx_nil, syncRun_of_quiescent hq]
  | cons b bs ih =>
    rw [pushAll_cons_of_room (evqFull_of_pushAll (by simp) h)] at h
    rw [ih (acceptByte_quiescent b hq) h, syncRun_appendRx_acceptByte]

theorem feedChunks_cons (chunk : List Byte) (chunks : List (List Byte)) (s : State) :
    feedChunks (chunk :: chunks) s = feedChunks chunks (syncRun (appendRx chunk s)) := rfl

/-- So does the document's process, however the bytes are cut. -/
theorem feedChunks_eq_syncRun {chunks : List (List Byte)} {s : State} (hq : quiescent s.rxb = true) :
    feedChunks chunks s = syncRun (appendRx chunks.flatten s) := by
  induction chunks generalizing s with
  | nil => exact (syncRun_of_quiescent hq).symm.trans (by rw [List.flatten_nil, appendRx_nil])
  | cons chunk chunks ih =>
    rw [feedChunks_cons, ih (syncRun_quiescent _), syncRun_appendRx_syncRun, ← appendRx_append, List.flatten_cons]

/-- Settles O42: both are the loop on all the bytes. -/
theorem chunkingDoesNotMatter : Obligations.ChunkingDoesNotMatter := by
  intro s t chunks hq h
  rw [feedChunks_eq_syncRun hq, pushAll_eq_syncRun hq h]

/-! ### Frames (R171, R172) -/

/-- Settles O45: the first part waits in RXB, and the second goes on where the pushes of the whole frame would. -/
theorem partialDeliveryEmitsAtLastByte : Obligations.PartialDeliveryEmitsAtLastByte := by
  intro s P k hP hrxb hroom hk
  have hf : evqFull s = false := (evqFull_eq_false_iff s).2 hroom
  have hrest : (frameOf P).drop k ≠ [] := by simpa using hk
  have hq := quiescent_of_append_eq_frameOf hP hrest (List.take_append_drop k (frameOf P))
  have hpart : pushAll ((frameOf P).take k) s = some { s with rxb := (frameOf P).take k } := by
    rw [pushAll_of_quiescent hf (by rwa [hrxb]), hrxb, List.nil_append]
  refine ⟨hpart, ?_⟩
  rw [← pushAll_append hpart, List.take_append_drop, pushAll_frameOf hP hrxb hf]

/-- Settles O46: the first frame leaves RXB empty for the second. -/
theorem twoFramesGiveTwoEvents : Obligations.TwoFramesGiveTwoEvents := by
  intro s t P1 P2 hP1 hP2 hrxb h
  have hf := evqFull_of_pushAll (List.append_ne_nil_of_left_ne_nil (frameOf_ne_nil P1) _) h
  rw [pushAll_append (pushAll_frameOf hP1 hrxb hf)] at h
  have hf' := evqFull_of_pushAll (frameOf_ne_nil P2) h
  rw [pushAll_frameOf (s := { s with evq := s.evq ++ [frameEvent P1] }) hP2 hrxb hf'] at h
  cases h
  simp

end Sys2Proof.Machine
end

section
/-! PROOFS. Resynchronisation after noise (43_synchronizer.md R170): bytes before the first two adjacent markers are discarded one
by one, and what stands there is taken as a candidate. -/

namespace Sys2Proof.Machine

/-! ### Two adjacent markers -/

theorem markerAtHead_iff_markerAt (B : List Byte) : markerAtHead B = true ↔ markerAt B 0 := by
  simp [markerAtHead, markerAt]

theorem markerAt_drop (B : List Byte) (n i : Nat) : markerAt (B.drop n) i ↔ markerAt B (n + i) := by
  simp only [markerAt, byteAt_drop, Nat.add_assoc]

theorem markerAt_append_left {B : List Byte} (X : List Byte) {i : Nat} (h : i + 1 < B.length) :
    markerAt (B ++ X) i ↔ markerAt B i := by
  simp only [markerAt, byteAt_append_left B X i (by omega), byteAt_append_left B X (i + 1) h]

theorem markerAt_take {B : List Byte} {n i : Nat} (hn : n ≤ B.length) (h : i + 1 < n) :
    markerAt (B.take n) i ↔ markerAt B i := by
  conv_rhs => rw [← List.take_append_drop n B]
  exact (markerAt_append_left _ (by simp; omega)).symm

/-- Noise before a frame has no marker pair of the stream when it has none of its own and its last byte is no marker: that byte
would make a pair with the first of the frame. -/
theorem noMarker_append_frameOf_iff (n P : List Byte) : (∀ i, i < n.length → ¬markerAt (n ++ frameOf P) i) ↔
    (∀ i, i + 1 < n.length → ¬markerAt n i) ∧ n.getLast? ≠ some Config.marker := by
  have hinner : ∀ i, i + 1 < n.length → (markerAt (n ++ frameOf P) i ↔ markerAt n i) := fun i => markerAt_append_left _
  rcases List.eq_nil_or_concat' n with rfl | ⟨m, b, rfl⟩
  · simp
  have hlast : markerAt (m ++ [b] ++ frameOf P) m.length ↔ b = Config.marker := by
    simp [markerAt, byteAt, frameOf]
  rw [List.getLast?_concat, Ne, Option.some_inj, ← hlast]
  constructor
  · exact fun h => ⟨fun i hi hm => h i (by omega) ((hinner i hi).2 hm), h m.length (by simp)⟩
  · rintro ⟨h, hend⟩ i hi hm
    rcases Nat.lt_or_ge (i + 1) (m ++ [b]).length with hlt | hge
    · exact h i hlt ((hinner i hlt).1 hm)
    · obtain rfl : i = m.length := by
        rw [List.length_append, List.length_singleton] at hi hge
        omega
      exact hend hm

/-! ### Discarding -/

/-- The first n bytes of RXB discarded and counted. -/
def discarded (n : Nat) (s : State) : State :=
  { s with rxb := s.rxb.drop n, resyncCount := s.resyncCount + BitVec.ofNat 32 n }

@[simp] theorem discarded_rxb (n : Nat) (s : State) : (discarded n s).rxb = s.rxb.drop n := rfl
@[simp] theorem discarded_evq (n : Nat) (s : State) : (discarded n s).evq = s.evq := rfl

theorem discarded_zero (s : State) : discarded 0 s = s := by simp [discarded]

theorem discarded_resyncCount {n : Nat} {s : State} (h : s.resyncCount.toNat + n < 2 ^ 32) :
    (discarded n s).resyncCount.toNat = s.resyncCount.toNat + n := by
  simp only [discarded, BitVec.toNat_add, BitVec.toNat_ofNat]
  omega

/-- A decode step on a head that is no marker discards one byte more. -/
theorem syncStep_discarded {n : Nat} {s : State} (hl : n + 6 ≤ s.rxb.length) (hm : ¬markerAt s.rxb n)
    (hc : s.resyncCount.toNat + n < 0xFFFFFFFF) :
    quiescent (discarded n s).rxb = false ∧ syncStep (discarded n s) = discarded (n + 1) s := by
  have hd : tryDecode (discarded n s).rxb = .notAligned := by
    refine tryDecode_notAligned (by simp; omega) (Bool.eq_false_iff.2 fun h => hm ?_)
    exact (markerAt_drop s.rxb n 0).1 ((markerAtHead_iff_markerAt _).1 h)
  refine ⟨by rw [quiescent, hd]; rfl, ?_⟩
  rw [syncStep_of_notAligned hd, satInc32_of_lt (by rw [discarded_resyncCount] <;> omega)]
  simp [discarded, BitVec.add_assoc, BitVec.ofNat_add]

/-- While no two adjacent markers come, the loop discards every byte that has five more behind it. -/
theorem syncRun_discarded {n : Nat} {s : State} (hl : n + 5 ≤ s.rxb.length) (hm : ∀ i, i < n → ¬markerAt s.rxb i)
    (hc : s.resyncCount.toNat + n < 2 ^ 32) : syncRun s = syncRun (discarded n s) := by
  induction n with
  | zero => rw [discarded_zero]
  | succ n ih =>
    obtain ⟨hq, he⟩ := syncStep_discarded (n := n) (s := s) (by omega) (hm n (by omega)) (by omega)
    rw [ih (by omega) (fun i hi => hm i (by omega)) (by omega), syncRun_of_not_quiescent hq, he]

/-! ### What the loop can count and emit -/

/-- The events that the loop emits join the tail of EVQ. -/
theorem syncRun_evq_prefix (s : State) : s.evq <+: (syncRun s).evq := by
  refine syncRun_induction (p := fun s t => s.evq <+: t.evq) (fun s _ => List.prefix_rfl) (fun s t hq ih => ?_) s
  rcases syncStep_cases_of_not_quiescent hq with ⟨-, -, he⟩ | ⟨-, -, e, -, he⟩ <;> rw [he] at ih
  · exact ih
  · exact (List.prefix_append s.evq [e]).trans ih

/-- The last five bytes are never discarded. -/
theorem syncRun_resyncCount_le (s : State) :
    (syncRun s).resyncCount.toNat ≤ s.resyncCount.toNat + (s.rxb.length - 5) := by
  refine syncRun_induction (p := fun s t => t.resyncCount.toNat ≤ s.resyncCount.toNat + (s.rxb.length - 5))
    (fun s _ => Nat.le_add_right _ _) (fun s t hq ih => ?_) s
  rcases syncStep_cases_of_not_quiescent hq with ⟨h6, -, he⟩ | ⟨-, hlen, e, -, he⟩ <;> rw [he, List.length_drop] at ih
  · have hinc := satInc32_le_add_one s.resyncCount
    dsimp only at ih
    omega
  · dsimp only at ih
    omega

/-! ### A frame with noise before it -/

theorem syncRun_frameOf {P : List Byte} {s : State} (hP : P.length ≤ 65535) (hrxb : s.rxb = frameOf P) :
    syncRun s = { s with rxb := [], evq := s.evq ++ [frameEvent P] } := by
  obtain ⟨A, b, hA⟩ := (List.eq_nil_or_concat' (frameOf P)).resolve_left (frameOf_ne_nil P)
  have hlast := acceptByte_completes_frame (s := { s with rxb := A }) hP hA.symm
  rwa [acceptByte_eq_syncRun, appendRx, ← hA, ← hrxb] at hlast

/-- Behind two markers in the noise the frame's own event cannot be all: the candidate takes as many bytes as the frame has, and
then not all the rest is discarded. -/
theorem not_resynchronized_of_marker {n P : List Byte} {s : State} (hP : P.length ≤ 65535) (hn : n ≠ [])
    (hrxb : s.rxb = n ++ frameOf P) (hm : markerAtHead s.rxb = true) :
    ¬((syncRun s).evq = s.evq ++ [frameEvent P] ∧ (syncRun s).resyncCount.toNat = s.resyncCount.toNat + n.length) := by
  rintro ⟨hevq, hcount⟩
  cases hq : quiescent s.rxb with
  | true =>
    rw [syncRun_of_quiescent hq] at hevq
    simp at hevq
  | false =>
    rcases syncStep_cases_of_not_quiescent hq with ⟨-, hm', -⟩ | ⟨-, hlen, e, hL, he⟩
    · cases hm.symm.trans hm'
    · have hprefix := syncRun_evq_prefix (syncStep s)
      have hle := syncRun_resyncCount_le (syncStep s)
      rw [← syncRun_of_not_quiescent hq, he] at hprefix hle
      rw [hevq, List.prefix_append_right_inj] at hprefix
      obtain rfl : e = frameEvent P := by simpa using hprefix
      have hLP : (declaredLength s.rxb).toNat = P.length := by
        rw [← hL, ← declaredLength_frameOf_toNat hP, declaredLength_frameOf]
        rfl
      have hpos := List.length_pos_of_ne_nil hn
      simp only [hcount, hrxb, List.length_drop, List.length_append, frameOf_length] at hle
      rw [hrxb] at hLP
      omega

/-- The frame's event alone is emitted and the noise alone counted when no offset in the noise starts two adjacent markers. -/
theorem syncRun_resynchronizes_iff {n P : List Byte} {s : State} (hP : P.length ≤ 65535) (hrxb : s.rxb = n ++ frameOf P)
    (hc : s.resyncCount.toNat + n.length < 2 ^ 32) :
    ((syncRun s).evq = s.evq ++ [frameEvent P] ∧ (syncRun s).resyncCount.toNat = s.resyncCount.toNat + n.length) ↔
      ∀ i, i < n.length → ¬markerAt s.rxb i := by
  have hlen : s.rxb.length = n.length + (6 + P.length) := by rw [hrxb, List.length_append, frameOf_length]
  constructor
  · intro h i
    induction i using Nat.strong_induction_on with
    | _ i ih =>
      intro hi hm
      have hrun := syncRun_discarded (n := i) (s := s) (by omega) (fun j hj => ih j hj (hj.trans hi)) (by omega)
      have hdrop : (discarded i s).rxb = n.drop i ++ frameOf P := by
        rw [discarded_rxb, hrxb, List.drop_append_of_le_length hi.le]
      refine not_resynchronized_of_marker hP (by simpa using hi) hdrop
        ((markerAtHead_iff_markerAt _).2 ((markerAt_drop s.rxb i 0).2 hm)) ?_
      rw [← hrun, discarded_resyncCount (by omega), List.length_drop, Nat.add_assoc, Nat.add_sub_cancel' hi.le]
      exact h
  · intro h
    have hdrop : (discarded n.length s).rxb = frameOf P := by rw [discarded_rxb, hrxb, List.drop_left]
    rw [syncRun_discarded (by omega) h hc, syncRun_frameOf hP hdrop]
    exact ⟨rfl, discarded_resyncCount hc⟩

/-! ### Pushes -/

/-- Pushes that emit no event are never stopped. -/
theorem pushAll_of_evq_eq {bs : List Byte} {s : State} (hq : quiescent s.rxb = true) (hf : evqFull s = false)
    (he : (syncRun (appendRx bs s)).evq = s.evq) : pushAll bs s = some (syncRun (appendRx bs s)) := by
  induction bs generalizing s with
  | nil => rw [appendRx_nil, syncRun_of_quiescent hq, pushAll]
  | cons b bs ih =>
    rw [← syncRun_appendRx_acceptByte] at he ⊢
    have hsame : (acceptByte b s).evq = s.evq :=
      ((syncRun_evq_prefix (appendRx [b] s)).eq_of_length_le
        (he ▸ (syncRun_evq_prefix (appendRx bs (acceptByte b s))).length_le)).symm
    have hf' : evqFull (acceptByte b s) = false := by rwa [evqFull, hsame, acceptByte_config]
    rw [pushAll_cons_of_room hf, ih (acceptByte_quiescent b hq) hf' (he.trans hsame.symm)]

/-- When five bytes are pushed from the first two adjacent markers on, they stand in RXB and every byte before them is
discarded. -/
theorem pushAll_to_marker {S : List Byte} {i : Nat} {s : State} (hrxb : s.rxb = []) (hf : evqFull s = false)
    (hi : i + 5 ≤ S.length) (hm : ∀ j, j < i → ¬markerAt S j) (hc : s.resyncCount.toNat + i < 2 ^ 32) :
    pushAll (S.take (i + 5)) s = some (discarded i (appendRx (S.take (i + 5)) s)) := by
  have hS : (appendRx (S.take (i + 5)) s).rxb = S.take (i + 5) := by rw [appendRx_rxb, hrxb, List.nil_append]
  have hlen : (S.take (i + 5)).length = i + 5 := List.length_take_of_le hi
  have hrun : syncRun (appendRx (S.take (i + 5)) s) = discarded i (appendRx (S.take (i + 5)) s) := by
    have hpairs : ∀ j, j < i → ¬markerAt (S.take (i + 5)) j := fun j hj h => hm j hj ((markerAt_take hi (by omega)).1 h)
    rw [syncRun_discarded (n := i) (s := appendRx (S.take (i + 5)) s) (by rw [hS, hlen]) (by rwa [hS]) hc]
    exact syncRun_of_quiescent (quiescent_of_short (by rw [discarded_rxb, hS, List.length_drop, hlen]; omega))
  rw [pushAll_of_evq_eq (quiescent_of_short (by simp [hrxb])) hf (by simp [hrun]), hrun]

/-- Settles O47: the loop on the whole stream, the pairs by where they can stand, the pushes up to the first pair, and the
example, which waits for a length that two marker bytes began. -/
theorem resyncAfterNoise : Obligations.ResyncAfterNoise := by
  refine ⟨fun s t n P hP hrxb hc h => ?_, noMarker_append_frameOf_iff, fun s n P i hrxb hc hroom hi hm hfirst => ?_,
    fun s hrxb hroom => ⟨?_, by decide +kernel⟩⟩
  · have hS : (appendRx (n ++ frameOf P) s).rxb = n ++ frameOf P := by rw [appendRx_rxb, hrxb, List.nil_append]
    rw [pushAll_eq_syncRun (quiescent_of_short (by simp [hrxb])) h]
    simpa only [hS, appendRx_evq, appendRx_resyncCount] using syncRun_resynchronizes_iff hP hS hc
  · have hlen : i + 5 ≤ (n ++ frameOf P).length := by simp; omega
    have hci : s.resyncCount.toNat + i < 2 ^ 32 := by omega
    refine ⟨_, pushAll_to_marker hrxb ((evqFull_eq_false_iff s).2 hroom) hlen hfirst hci, rfl,
      discarded_resyncCount (s := appendRx _ s) hci, ?_, fun hd => ?_⟩
    · rw [discarded_rxb, appendRx_rxb, hrxb, List.nil_append, List.drop_take, slice]
    · obtain ⟨-, hm'⟩ := (tryDecode_notAligned_iff _).1 hd
      exact Bool.eq_false_iff.1 hm' ((markerAtHead_iff_markerAt _).2 ((markerAt_drop _ i 0).2 hm))
  · have hq : quiescent ([0xAA] ++ frameOf [0xAA, 0xBB, 0xC8]) = true := by decide +kernel
    rw [pushAll_of_quiescent ((evqFull_eq_false_iff s).2 hroom) (by rwa [hrxb]), hrxb, List.nil_append]

end Sys2Proof.Machine
end

section
/-! PROOFS. The turns at the ports (44_control.md R190 to R195): what the host's turn does with its outstanding word, which turns
pass, and the transactions that write nothing of the block but ILL. -/

namespace Sys2Proof.Machine

/-! ### The outstanding word (R191) -/

/-- What holds the two commands that can be held. -/
theorem held_cases {i : Instr} {s : State} (h : held i s = true) :
    (∃ b, i = .rxPush b) ∧ s.evq.length = s.config.evqCap ∨
      i = .txCommit ∧ s.txOvf = false ∧ s.config.txqCap - s.txq.length < 6 + s.txb.length := by
  cases i with
  | rxPush b => exact .inl ⟨⟨b, rfl⟩, (evqFull_iff s).1 h⟩
  | txCommit =>
    obtain ⟨ho, -, hlacks⟩ := (txCommitHeld_iff s).1 h
    exact .inr ⟨rfl, ho, hlacks⟩
  | _ => cases h

/-- Settles O8: the three kinds of outstanding word, and the two commands that can be held. -/
theorem stepRunsOfferedCommand : Obligations.StepRunsOfferedCommand :=
  ⟨fun _ _ _ _ ht hc => ⟨fun _ => step_command ht hc, fun _ => step_held ht hc, fun _ => step_illegal ht hc⟩,
    fun _ _ => held_cases⟩

/-! ### Turns that pass (R190) -/

/-- The host's turn passes when no word is outstanding or the outstanding one is held. -/
theorem commandEnabled_eq_false_iff (s : State) : commandEnabled s = false ↔
    s.cmds = [] ∨ ∃ w ws i, s.cmds = w :: ws ∧ decode w = .ok i ∧ held i s = true := by
  unfold commandEnabled
  match s.cmds with
  | [] => simp
  | w :: ws => cases hd : decode w <;> simp [hd]

theorem performedCommand_eq_none_iff (s : State) : performedCommand s = none ↔ commandEnabled s = false := by
  rw [commandEnabled_eq_false_iff]
  unfold performedCommand
  match s.cmds with
  | [] => simp
  | w :: ws => cases hd : decode w <;> simp [hd]

/-- A step performs a transaction exactly when the agent whose turn it is finds its transaction enabled. -/
theorem performed_eq_none_iff {s : State} {t : Turn} {ts : List Turn} (ht : s.turns = t :: ts) :
    performed s = none ↔ enabled t s = false := by
  unfold performed
  rw [ht]
  cases t with
  | command => exact performedCommand_eq_none_iff s
  | _ => simp [enabled]

/-- The turn of an agent whose transaction is not enabled passes. -/
theorem step_of_disabled {s : State} {t : Turn} {ts : List Turn} (ht : s.turns = t :: ts) (h : enabled t s = false) :
    step s = .next { s with turns := ts } := by
  cases t with
  | command =>
    rcases (commandEnabled_eq_false_iff s).1 h with hc | ⟨w, ws, i, hc, hd, hheld⟩
    · simp [step_turn ht, runTurn, offerCommand, hc]
    · exact step_held ht hc hd hheld
  | regRead idx => cases h
  | evtPop => exact step_evtPop_nil ht (by simpa [enabled, evqNe] using h)
  | txPop => exact step_txPop_nil ht (by simpa [enabled, txqNe] using h)
  | reset r => cases h

/-- Settles O9: a turn by whether its transaction is enabled, and the end of the turns. -/
theorem disabledTurnChangesNothing : Obligations.DisabledTurnChangesNothing := by
  refine ⟨fun s t ts ht h => ⟨step_of_disabled ht h, (performed_eq_none_iff ht).2 h⟩, fun s t ts ht h hp => ?_,
    fun s => step_idle, fun s idx => rfl, fun s r => rfl, evqNe_iff, txqNe_iff⟩
  exact Bool.eq_false_iff.1 ((performed_eq_none_iff ht).1 hp) h

/-! ### REG_READ and NOP (R195, R192) -/

theorem step_regRead {s : State} {idx : Byte} {ts : List Turn} (ht : s.turns = .regRead idx :: ts) :
    step s = .next { s with turns := ts, reads := s.reads ++ [(idx, regValue idx s)] } := step_turn ht

/-- Settles O10: the read, an unmapped index, and CRC_RESULT_R after CRC_OF of the check string. -/
theorem registerReadReturnsValue : Obligations.RegisterReadReturnsValue := by
  refine ⟨fun s idx ts => step_regRead, fun s idx => regValue_unmapped s,
    fun s => ⟨_, run_crcOf [0x31, 0x32, 0x33, 0x34, 0x35, 0x36, 0x37, 0x38, 0x39] s, ?_⟩⟩
  obtain ⟨hcheck, -⟩ := crcCheckValues
  rw [regValue_crcResult rfl, hcheck]
  rfl

/-- Settles O15: NOP has one branch, and it takes no operand. -/
theorem nopChangesNothing : Obligations.NopChangesNothing :=
  ⟨fun _ => ⟨rfl, rfl⟩, decodeOfEncode .nop rfl, fun _ => decode_noOperand_error (by decide)⟩

/-! ### Illegal words (R194) -/

/-- What the agents hold is no part of the block. -/
theorem sameBlock_withAgents (s : State) (ws : List Word) (ts : List Turn) (rs : List (Byte × RegVal)) (es : List Event)
    (bs : List Byte) : SameBlock s { s with cmds := ws, turns := ts, reads := rs, taken := es, sent := bs } := by
  constructor <;> rfl

/-- ILL is the one bit of STATUS that an illegal word sets in a block with no other flag, no event and no byte to send. -/
theorem statusWord_illegalWord {s : State} (hc : s.config.Legal) (he : s.evq = []) (hq : s.txq = [])
    (hcand : rxCand s = false) (ho : s.txOvf = false) (hrej : s.txRej = false) :
    statusWord (illegalWord s) = 0x00000001 := by
  have hcap := hc.evq_pos
  have hfull : evqFull (illegalWord s) = false := by
    rw [evqFull_eq_false_iff, illegalWord_evq, he, List.length_nil, illegalWord_config]
    omega
  have hcand' : rxCand (illegalWord s) = false := hcand
  simp [statusWord, hfull, hcand', evqNe, txqNe, he, hq, ho, hrej, flagAt]

/-- Settles O26: the turn of an illegal word, the samples by the cases of R88, the count, and STATUS of an idle block. -/
theorem illegalWordSetsIllOnly : Obligations.IllegalWordSetsIllOnly :=
  ⟨fun s _ _ _ _ ht hc hd => ⟨_, step_illegal ht hc hd, rfl, sameBlock_withAgents { s with ill := true } .., rfl⟩,
    ⟨.nonzeroOperand 0x01 0x01, by decide⟩, ⟨.reservedMaskBit 0x03, by decide⟩, ⟨.unlistedOpcode 0x40, by decide⟩,
    illegalWords_eq, fun _ he hc hq hcand ho hrej => statusWord_illegalWord hc he hq hcand ho hrej⟩

end Sys2Proof.Machine
end

section
/-! PROOFS. Backpressure can deadlock the command port (70_reset_and_hazards.md R246): behind a held word the agents can only read
registers and take from the two queues. -/

namespace Sys2Proof.Machine

/-- t is what s can have become behind a held word while no RESET comes: the agents read registers and pop the two queues, and a
queue that no agent comes to pop is as it was. -/
structure Blocked (s t : State) : Prop where
  frame : t = { s with
    turns := t.turns, reads := t.reads, evq := t.evq, taken := t.taken, txq := t.txq, sent := t.sent }
  turns : t.turns ⊆ s.turns
  evq : .evtPop ∉ s.turns → t.evq = s.evq
  txq : .txPop ∉ s.turns → t.txq = s.txq

namespace Blocked
variable {s t u : State}

theorem refl (s : State) : Blocked s s := ⟨rfl, List.Subset.refl _, fun _ => rfl, fun _ => rfl⟩

theorem trans (h : Blocked s t) (h' : Blocked t u) : Blocked s u where
  frame := by rw [h'.frame, h.frame]
  turns := List.Subset.trans h'.turns h.turns
  evq hp := (h'.evq fun hm => hp (h.turns hm)).trans (h.evq hp)
  txq hp := (h'.txq fun hm => hp (h.turns hm)).trans (h.txq hp)

theorem cmds (h : Blocked s t) : t.cmds = s.cmds := by rw [h.frame]

/-- Only the two queues of the block can differ. -/
theorem sameBlock (h : Blocked s t) : SameBlock { s with evq := t.evq, txq := t.txq } t := by
  rw [h.frame]
  exact sameBlock_withAgents { s with evq := t.evq, txq := t.txq } ..

/-- A held RX_PUSH stays held while EVQ is not popped. -/
theorem held_rxPush (h : Blocked s t) {b : Byte} (hp : .evtPop ∉ s.turns) (hh : held (.rxPush b) s = true) :
    held (.rxPush b) t = true := by
  refine (evqFull_iff t).2 ?_
  rw [h.evq hp, h.sameBlock.config]
  exact (evqFull_iff s).1 hh

/-- A held TX_COMMIT stays held while TXQ is not popped. -/
theorem held_txCommit (h : Blocked s t) (hp : .txPop ∉ s.turns) (hh : held .txCommit s = true) :
    held .txCommit t = true := by
  refine (txCommitHeld_iff t).2 ?_
  rw [h.txq hp, h.sameBlock.config, h.sameBlock.txb, h.sameBlock.txOvf]
  exact (txCommitHeld_iff s).1 hh

end Blocked

/-- One step behind a held word. -/
theorem step_blocked {i : Instr} {s : State} {w : Word} {ws : List Word} (hc : s.cmds = w :: ws) (hd : decode w = .ok i)
    (hh : held i s = true) (hr : ∀ r, .reset r ∉ s.turns) : ∃ t, step s = .next t ∧ Blocked s t := by
  match ht : s.turns with
  | [] => exact ⟨s, step_idle ht, .refl s⟩
  | u :: ts =>
    have hsub : ts ⊆ s.turns := ht ▸ List.subset_cons_self u ts
    cases u with
    | command => exact ⟨_, step_held ht hc hd hh, rfl, hsub, fun _ => rfl, fun _ => rfl⟩
    | regRead idx => exact ⟨_, step_regRead ht, rfl, hsub, fun _ => rfl, fun _ => rfl⟩
    | evtPop =>
      have hturn : Turn.evtPop ∈ s.turns := ht ▸ List.mem_cons_self
      match he : s.evq with
      | [] => exact ⟨_, step_evtPop_nil ht he, rfl, hsub, fun _ => rfl, fun _ => rfl⟩
      | e :: rest => exact ⟨_, step_evtPop_cons ht he, rfl, hsub, fun hp => absurd hturn hp, fun _ => rfl⟩
    | txPop =>
      have hturn : Turn.txPop ∈ s.turns := ht ▸ List.mem_cons_self
      match hq : s.txq with
      | [] => exact ⟨_, step_txPop_nil ht hq, rfl, hsub, fun _ => rfl, fun _ => rfl⟩
      | b :: rest => exact ⟨_, step_txPop_cons ht hq, rfl, hsub, fun _ => rfl, fun hp => absurd hturn hp⟩
    | reset r => exact absurd (ht ▸ List.mem_cons_self) (hr r)

/-- Any number of steps behind a word that stays held whatever the agents can do. -/
theorem run_blocked {i : Instr} {s : State} {w : Word} {ws : List Word} (n : Nat) (hc : s.cmds = w :: ws)
    (hd : decode w = .ok i) (hh : ∀ t, Blocked s t → held i t = true) (hr : ∀ r, .reset r ∉ s.turns) :
    ∃ t, run n s = .next t ∧ Blocked s t := by
  induction n generalizing s with
  | zero => exact ⟨s, run_zero s, .refl s⟩
  | succ n ih =>
    obtain ⟨u, hstep, hu⟩ := step_blocked hc hd (hh s (.refl s)) hr
    obtain ⟨t, hrun, ht⟩ := ih (hu.cmds.trans hc) (fun t ht => hh t (hu.trans ht)) fun r hm => hr r (hu.turns hm)
    exact ⟨t, (run_succ_next hstep).trans hrun, hu.trans ht⟩

/-- Settles O58: the queue that holds the command is not popped, so the command stays held. -/
theorem heldCommandBlocksPort : Obligations.HeldCommandBlocksPort := by
  refine ⟨fun n s w ws b hc hd hh hp hr => ?_, fun n s w ws hc hd hh hp hr => ?_⟩
  · obtain ⟨t, hrun, ht⟩ := run_blocked n hc hd (fun t ht => ht.held_rxPush hp hh) hr
    exact ⟨t, hrun, ht.cmds, ht.evq hp ▸ ht.sameBlock, ht.held_rxPush hp hh⟩
  · obtain ⟨t, hrun, ht⟩ := run_blocked n hc hd (fun t ht => ht.held_txCommit hp hh) hr
    exact ⟨t, hrun, ht.cmds, ht.txq hp ▸ ht.sameBlock, ht.held_txCommit hp hh⟩

end Sys2Proof.Machine
end

section
/-! PROOFS. Reset (70_reset_and_hazards.md R240 to R242) and the hazards at the ports: the clean-up order (R244) and the pops that
release a held TX_COMMIT (R247). -/

namespace Sys2Proof.Machine

/-! ### RESET (R240 to R242) -/

theorem step_reset {s : State} {r : Bool} {ts : List Turn} (ht : s.turns = .reset r :: ts) :
    step s = .next (resetBlock r { s with turns := ts }) := step_turn ht

/-- The registers do not look at what the agents hold, so after RESET they read as in a block just built. -/
theorem regValue_resetBlock (idx : Byte) (r : Bool) (s : State) :
    regValue idx (resetBlock r s) = regValue idx (State.resetWith s.config) := rfl

/-- Settles O13: the elements that RESET writes, and the registers of a block just built. -/
theorem resetGivesResetValues : Obligations.ResetGivesResetValues := by
  refine ⟨fun s r ts ht => ⟨rfl, _, step_reset ht, rfl, rfl, rfl, rfl, rfl, rfl, rfl, rfl, rfl, rfl⟩,
    fun s r ts t ht hc h => ?_⟩
  cases (step_reset ht).symm.trans h
  obtain ⟨-, -, -, hread, -⟩ := registerMapReads
  obtain ⟨hstatus, hcrc, hzero, hevqCap, htxqCap⟩ := hread s.config hc
  simp only [regValue_resetBlock]
  exact ⟨hstatus, hcrc, hzero 0x02 (by decide), fun idx hidx => hzero idx (List.mem_cons_of_mem _ hidx), hevqCap, htxqCap⟩

/-- Settles O14: RESET writes nothing outside the block but the host's word list. -/
theorem resetLeavesAgents : Obligations.ResetLeavesAgents :=
  fun _ _ _ ht => ⟨_, step_reset ht, rfl, rfl, rfl, rfl, rfl⟩

/-! ### The clean-up order (R244) -/

/-- As many turns of the consumer as EVQ has events take them all, oldest first. -/
theorem run_evtPops {es : List Event} {s : State} {ts : List Turn} (he : s.evq = es)
    (ht : s.turns = List.replicate es.length .evtPop ++ ts) :
    run es.length s = .next { s with turns := ts, evq := [], taken := s.taken ++ es } := by
  induction es generalizing s with
  | nil =>
    obtain rfl : s.turns = ts := ht
    rw [List.length_nil, run_zero, List.append_nil, ← he]
  | cons e es ih =>
    rw [List.length_cons, run_succ_next (step_evtPop_cons ht he), ih rfl rfl, List.append_assoc, List.singleton_append]

/-- CLR_STATUS with the mask of CLR_ALL clears both flags that it can clear (R94, R193). -/
theorem exec_clrAll (s : State) : exec (.clrStatus 0x05) s = .next { s with ill := false, txRej := false } := by
  have hill : maskBit 0x05 0 = true := rfl
  have hrej : maskBit 0x05 2 = true := rfl
  rw [exec, execClrStatus_eq, hill, hrej, Bool.not_true, Bool.and_false, Bool.and_false]

/-- The four commands of the clean-up order, none of which can be held. -/
theorem run_cleanUpCommands (s : State) :
    run 4 (offering [encode .rxClear, encode .txAbort, encode (.clrStatus 0x05), encode .crcInit] s) =
      .next { s with rxb := [], txb := [], txOvf := false, ill := false, txRej := false, crcState := 0xFFFF } := by
  rw [run_succ_next (step_offering (i := .rxClear) rfl rfl rfl _), run_succ_next (step_offering (i := .txAbort) rfl rfl rfl _),
    run_succ_next (step_offering (i := .clrStatus 0x05) rfl rfl (exec_clrAll _) _),
    run_succ_next (step_offering (i := .crcInit) rfl rfl rfl _)]
  rfl

/-- Settles O60: the four commands, and then the pops of every event. -/
theorem cleanUpReachesKnownState : Obligations.CleanUpReachesKnownState := by
  intro s
  rw [List.append_assoc]
  have hcommands := run_cleanUpCommands { s with turns := List.replicate s.evq.length .evtPop ++ s.turns }
  exact (run_add hcommands).trans (run_evtPops rfl rfl)

/-! ### A held TX_COMMIT (R247) -/

/-- The host's turn performs a commit for which TXQ has room. -/
theorem step_txCommit_queue {s : State} {ws : List Word} {ts : List Turn} (ht : s.turns = .command :: ts)
    (hc : s.cmds = encode .txCommit :: ws) (ho : s.txOvf = false) (hl : s.txb.length ≤ 65535)
    (hroom : 6 + s.txb.length ≤ s.config.txqCap - s.txq.length) :
    step s = .next { s with turns := ts, cmds := ws, txq := s.txq ++ frameOf s.txb, txb := [] } := by
  have hheld : held .txCommit s = false := (held_txCommit_eq_false_iff s).2 fun _ _ => hroom
  rw [step_command ht hc (decodeOfEncode .txCommit rfl) hheld]
  exact exec_txCommit_queue ho hl hroom

/-- The pops that make the room, and then the host's turn, which performs the commit. -/
theorem run_txPops_commit {s : State} {ws : List Word} {ts : List Turn} {k : Nat} (ho : s.txOvf = false)
    (hl : s.txb.length ≤ 65535) (hc : s.cmds = encode .txCommit :: ws) (hk : k ≤ s.txq.length)
    (hroom : 6 + s.txb.length ≤ s.config.txqCap - (s.txq.length - k))
    (ht : s.turns = List.replicate k .txPop ++ [.command] ++ ts) :
    run (k + 1) s = .next { s with
      turns := ts, cmds := ws, sent := s.sent ++ s.txq.take k, txq := s.txq.drop k ++ frameOf s.txb, txb := [] } := by
  rw [List.append_assoc] at ht
  rw [← List.length_drop] at hroom
  rw [run_add (run_txPops ht hk)]
  exact run_succ_next (step_txCommit_queue rfl hc ho hl hroom)

/-- Settles O59: when TX_COMMIT is held, the pops before the host's turn, and the empty TXQ. -/
theorem popsReleaseHeldCommit : Obligations.PopsReleaseHeldCommit :=
  ⟨fun s ho hl => (txCommitHeld_iff s).trans (by simp [ho, hl]), fun _ _ _ _ => run_txPops_commit,
    fun _ hc _ => held_txCommit_of_txq_nil hc⟩

end Sys2Proof.Machine
end
